-- ==== Sys2Proof/Word.lean ====
section
/-! DEFINITION. The two word types of the machine: 16-bit command words and latches (R70, R22), and
8-bit register bytes (R27). -/

namespace Sys2Proof

/-- A command word, an operand, or an operand latch: 16 bits (R70, R72, R22). -/
abbrev Word := BitVec 16

/-- A register of the chip, a register address, or a byte on the bus: 8 bits (R27, R40). -/
abbrev Byte := BitVec 8

end Sys2Proof
end

