-- ==== Sys2Proof/Config.lean ====
section
/-! DEFINITION. What an implementation fixes and what the spec leaves free. The opaque constants have no
body, so no proof can know their value: each is a free value of notes/assumptions (3, 6, 7). The
parameters of R6 are plain data in `State.straps`; their types are here. -/

namespace Sys2Proof

/-- The status `endTransaction()` reports, abstracted to two values (R41). -/
inductive TxnStatus where
  | ok
  | fault
  deriving DecidableEq, Repr, Inhabited

/-- The parameter `SETALL_EMPTY` (R6, R131): what SETA does when its count is 0. -/
inductive SetAllEmpty where
  | addressOnlyWrite
  | noTransaction
  deriving DecidableEq, Repr

/-- Free value: the status of the n-th transaction whose answer `State.statusIn` does not hold (R11, U16;
log 6). Safe: nothing constrains it. -/
opaque Config.freeStatus : Nat → TxnStatus

/-- Free value: the n-th byte read from a register of unknown content when `State.byteIn` holds none
(R11, R38, U4, U16; log 7). Safe: nothing constrains it. -/
opaque Config.freeByte : Nat → Byte

/-- Free value: the parameter `DEFAULT_FREQ_HZ` of the machine at reset, which the spec leaves OPEN
(R6, R102, U3; log 3). Safe: nothing constrains it. -/
opaque Config.defaultFreqHz : Word

end Sys2Proof
end

