-- ==== Sys2Proof/Machine/Constants.lean ====
section
/-! DEFINITION. The constants of R5 (transcribed as the document gives them, U21) and the parameter
defaults of R6. -/

namespace Sys2Proof.Machine

/-- R5: channels 0 to 15. -/
def numChannels : Nat := 16

/-- R5: ticks of a PWM period. -/
def periodTicks : Nat := 4096

/-- R5: the force-on and force-off sentinel. -/
def force : Word := 4096

/-- R5: the saturation threshold; a duty value from here up is fully on. -/
def dutyFull : Nat := 4095

/-- R5: base address of channel 0. -/
def firstLedBase : Nat := 0x06

/-- R5: registers of one channel. -/
def regsPerChannel : Nat := 4

/-- R5: address of MODE1. -/
def addrMode1 : Byte := 0x00

/-- R5: address of MODE2. -/
def addrMode2 : Byte := 0x01

/-- R5: address of PRESCALER. -/
def addrPrescaler : Byte := 0xFE

/-- R5: the chip's oscillator, in hertz. -/
def oscHz : Nat := 25000000

/-- R5: lower end of the clamp of the frequency operand. -/
def freqMin : Nat := 24

/-- R5: upper end of the clamp of the frequency operand. -/
def freqMax : Nat := 1526

/-- R6: default of `DEVICE_ADDR`. -/
def deviceAddrDefault : BitVec 7 := 0x40

/-- R6: default of `HAS_CFG`. -/
def hasCfgDefault : Bool := true

/-- R6: default of `PRESCALE_SLEEP_BRACKET`. -/
def prescaleSleepBracketDefault : Bool := true

/-- R6: default of `SETALL_EMPTY`. -/
def setAllEmptyDefault : SetAllEmpty := .addressOnlyWrite

/-- DEDUCED from R50, which stores every one-byte write, unsafe where the bracket is off on a chip that needs it:
by default the chip takes a PRESCALER write awake or asleep (log 13). -/
def prescalerNeedsSleepDefault : Bool := false

end Sys2Proof.Machine
end

