-- ==== Sys2Proof/Syntax.lean ====
section
/-! DEFINITION. The six commands of spec/opcode_table.json as syntax, and the text lines of R82. -/

namespace Sys2Proof

/-- The commands, one constructor per row of the opcode table (R75). Every field is unsigned and at its
face value (R76). -/
inductive Instr where
  /-- SETT: channel `ch` (legal 0 to 15), raw `on` and `off` (R110). -/
  | sett (ch : Byte) (on off : Word)
  /-- SETD: channel `ch` (legal 0 to 15), duty value (R111). -/
  | setd (ch : Byte) (value : Word)
  /-- SETA: one duty value per channel from channel 0 on; the header's `count` is the number of values
  (legal 0 to 16, encodable 0 to 255) (R120). -/
  | seta (values : List Word)
  /-- INIT (R102). -/
  | init
  /-- SETF: a frequency in hertz (R103). -/
  | setf (hz : Word)
  /-- SETM: true selects totem-pole drive, false open-drain (R104). -/
  | setm (totemPole : Bool)
  deriving DecidableEq, Repr

/-- The assigned opcodes of R75. -/
inductive Opcode where
  | sett
  | setd
  | seta
  | init
  | setf
  | setm
  deriving DecidableEq, Repr

/-- Why a header word is an illegal command: the five cases of R77, by name. -/
inductive IllegalKind where
  /-- R77 (a): `op` is unassigned. -/
  | unassignedOp
  /-- R77 (b): `rsv` is not 0. -/
  | reservedBits
  /-- R77 (c): INIT or SETF with `arg` not 0. -/
  | argNotZero
  /-- R77 (d): SETM with `arg` above 1. -/
  | argAboveOne
  /-- R77 (e): INIT, SETF or SETM while `HAS_CFG` is false. -/
  | cfgAbsent
  deriving DecidableEq, Repr

/-- One line of the assembler text of R82, with its operands as written. -/
inductive AsmLine where
  | sett (ch on off : Nat)
  | setd (ch value : Nat)
  | seta (values : List Nat)
  | init
  | setf (hz : Nat)
  | setm (t : Nat)
  /-- `.word x`: a raw 16-bit word. -/
  | word (x : Nat)
  deriving DecidableEq, Repr

end Sys2Proof
end

