-- ==== Sys2Proof/WellFormed.lean ====
section
/-! DEFINITION. Which terms of `Instr` a command stream can carry. -/

namespace Sys2Proof

/-- A command the encoding can carry: the 8-bit `arg` of SETA holds at most 255 values (R71, R73). Every
other operand fits its field by its type. -/
def Instr.wf : Instr → Bool
  | .sett _ _ _ => true
  | .setd _ _ => true
  | .seta values => values.length ≤ 255
  | .init => true
  | .setf _ => true
  | .setm _ => true

/-- Whether a command belongs to the command set of an instance: the CFG extension is present when
`HAS_CFG` is true (R2, R100). -/
def Instr.present (hasCfg : Bool) : Instr → Bool
  | .sett _ _ _ => true
  | .setd _ _ => true
  | .seta _ => true
  | .init => hasCfg
  | .setf _ => hasCfg
  | .setm _ => hasCfg

/-- The length of a command in words (R74). -/
def Instr.length : Instr → Nat
  | .sett _ _ _ => 3
  | .setd _ _ => 2
  | .seta values => 1 + values.length
  | .init => 1
  | .setf _ => 2
  | .setm _ => 1

end Sys2Proof
end

