-- ==== Sys2Proof/Decode.lean ====
section
/-! DEFINITION. The decoder of R70 to R80, total on any words, and the encoder written from the same
tables. -/

namespace Sys2Proof

/-- What the decoder makes of the unread words of the stream. -/
inductive Fetched where
  /-- A whole command, and the words after it. -/
  | command (i : Instr) (rest : List Word)
  /-- The first word is an illegal command (R77); it is one word long. -/
  | illegal (why : IllegalKind) (rest : List Word)
  /-- The header is legal and its operand words have not all arrived (R79). -/
  | truncated
  /-- There is no unread word. -/
  | empty
  deriving DecidableEq, Repr

/-- Bits 15:12 of a header word (R71). -/
def headerOp (w : Word) : BitVec 4 := w.extractLsb' 12 4

/-- Bits 11:8 of a header word, reserved (R71). -/
def headerRsv (w : Word) : BitVec 4 := w.extractLsb' 8 4

/-- Bits 7:0 of a header word (R71). -/
def headerArg (w : Word) : Byte := w.extractLsb' 0 8

/-- The opcode map of R75; unassigned numbers have none. -/
def opcodeOf (op : BitVec 4) : Option Opcode :=
  if op = 0x1#4 then some .sett
  else if op = 0x2#4 then some .setd
  else if op = 0x3#4 then some .seta
  else if op = 0x8#4 then some .init
  else if op = 0x9#4 then some .setf
  else if op = 0xA#4 then some .setm
  else none

/-- The opcode numbers of R75, for the encoder. -/
def opcodeNumber : Opcode → BitVec 4
  | .sett => 0x1#4
  | .setd => 0x2#4
  | .seta => 0x3#4
  | .init => 0x8#4
  | .setf => 0x9#4
  | .setm => 0xA#4

/-- R77 (c), (d), (e) for an assigned opcode: what its argument and the parameter `HAS_CFG` must be. -/
def argCheck (hasCfg : Bool) (op : Opcode) (arg : Byte) : Except IllegalKind Unit :=
  match op with
  | .sett => .ok ()
  | .setd => .ok ()
  | .seta => .ok ()
  | .init => if !hasCfg then .error .cfgAbsent else if arg ≠ 0 then .error .argNotZero else .ok ()
  | .setf => if !hasCfg then .error .cfgAbsent else if arg ≠ 0 then .error .argNotZero else .ok ()
  | .setm => if !hasCfg then .error .cfgAbsent else if 1 < arg.toNat then .error .argAboveOne else .ok ()

/-- The legal reading of a header word, or the case of R77 that makes it an illegal command. -/
def readHeader (hasCfg : Bool) (w : Word) : Except IllegalKind Opcode :=
  match opcodeOf (headerOp w) with
  | none => .error .unassignedOp
  | some op =>
    if headerRsv w ≠ 0 then .error .reservedBits
    else
      match argCheck hasCfg op (headerArg w) with
      | .error why => .error why
      | .ok _ => .ok op

/-- The operand words of a legal header (R73, R76), or `truncated` where they have not all arrived (R79). -/
def decodeOperands (op : Opcode) (arg : Byte) (ws : List Word) : Fetched :=
  match op with
  | .sett =>
    match ws with
    | on :: off :: rest => .command (.sett arg on off) rest
    | _ => .truncated
  | .setd =>
    match ws with
    | value :: rest => .command (.setd arg value) rest
    | [] => .truncated
  | .seta =>
    if ws.length < arg.toNat then .truncated
    else .command (.seta (ws.take arg.toNat)) (ws.drop arg.toNat)
  | .init => .command .init ws
  | .setf =>
    match ws with
    | hz :: rest => .command (.setf hz) rest
    | [] => .truncated
  | .setm => .command (.setm (arg.getLsbD 0)) ws

/-- The decoder: the first command of the unread words (R70 to R80). -/
def decode (hasCfg : Bool) (ws : List Word) : Fetched :=
  match ws with
  | [] => .empty
  | w :: rest =>
    match readHeader hasCfg w with
    | .error why => .illegal why rest
    | .ok op => decodeOperands op (headerArg w) rest

/-- The length in words that a header word gives its command (R74). -/
def headerLength (hasCfg : Bool) (w : Word) : Nat :=
  match readHeader hasCfg w with
  | .error _ => 1
  | .ok .sett => 3
  | .ok .setd => 2
  | .ok .seta => 1 + (headerArg w).toNat
  | .ok .init => 1
  | .ok .setf => 2
  | .ok .setm => 1

/-- The header word of R71 with `rsv` 0. -/
def headerWord (op : Opcode) (arg : Byte) : Word := (opcodeNumber op ++ 0x0#4) ++ arg

/-- The words of a command (R73, R75). -/
def encode : Instr → List Word
  | .sett ch on off => [headerWord .sett ch, on, off]
  | .setd ch value => [headerWord .setd ch, value]
  | .seta values => headerWord .seta (BitVec.ofNat 8 values.length) :: values
  | .init => [headerWord .init 0]
  | .setf hz => [headerWord .setf 0, hz]
  | .setm totemPole => [headerWord .setm (if totemPole then 1 else 0)]

/-- The length in words of the longest command: a header and 255 values (R74). -/
def longestCommand : Nat := 256

/-- The words of an instruction whose bits are `w`, bit 0 the least significant bit of the first word and a
later word's bits counting on from it; bits from `nbits` up are 0. -/
def tableWords (nbits w : Nat) : List Word :=
  (List.range longestCommand).map fun k => BitVec.ofNat 16 ((w % 2 ^ nbits) >>> (16 * k))

/-- The instruction this decoder reads from an opcode-table row's bits, with `HAS_CFG` at its default
(R6). -/
def decodeTableWord (nbits w : Nat) : Option Instr :=
  match decode Machine.hasCfgDefault (tableWords nbits w) with
  | .command i _ => some i
  | .illegal _ _ => none
  | .truncated => none
  | .empty => none

end Sys2Proof
end

