-- ==== Sys2Proof/Machine/State.lean ====
section
/-! DEFINITION. The state of the machine as plain data: the CTE (10_state part A), its ports, the chip's
register image (part B, R50), and the model's own carriers of the free inputs of R11. -/

namespace Sys2Proof.Machine

/-- The status codes of R160, one per command. -/
inductive Response where
  | ok
  | invalidArgument
  | transportFault
  | illegalCommand
  deriving DecidableEq, Repr

/-- One call of the transport contract (R41, R42). -/
inductive Call where
  | beginTransaction (device : BitVec 7)
  | writeByte (b : Byte)
  | endTransaction (status : TxnStatus)
  | requestRead (device : BitVec 7) (count : Nat)
  | readByte (b : Byte)
  deriving DecidableEq, Repr

/-- A write transaction in flight: the device addressed, and the bytes sent so far, the register address
first (R41, R54). -/
structure Flight where
  device : BitVec 7
  sent : List Byte
  deriving DecidableEq, Repr

/-- The straps and parameters of one instance (R6, R21), fixed for its life, and one fact about the revision
of its chip. -/
structure Straps where
  /-- `DEVICE_ADDR` (R21). -/
  deviceAddr : BitVec 7
  /-- `HAS_CFG` (R6). -/
  hasCfg : Bool
  /-- `PRESCALE_SLEEP_BRACKET` (R6). -/
  prescaleSleepBracket : Bool
  /-- `DEFAULT_FREQ_HZ` (R6). -/
  defaultFreqHz : Word
  /-- `SETALL_EMPTY` (R6). -/
  setAllEmpty : SetAllEmpty
  /-- Whether PRESCALER is writable only while the chip is asleep (R31, R196, U1). -/
  prescalerNeedsSleep : Bool
  deriving DecidableEq, Repr

/-- The chip's register image `REG` of R50: the registers whose byte is known, addresses strictly rising. An
address that is not listed holds an unknown byte (R38, R51, R52). -/
abbrev Memory := List Host.Cell

/-- The whole machine. -/
structure State where
  /-- Straps and parameters (R6, R21). -/
  straps : Straps
  /-- Index of the next unread word of the stream (R25). -/
  pc : Nat
  /-- The operand latches `V[0..15]` (R22). -/
  latches : Vector Word 16
  /-- Working register `dimmedCount` (R23). -/
  dimmedCount : Nat
  /-- Working register `totalDimmedTicks` (R23). -/
  totalDimmedTicks : Nat
  /-- Working register `overlap`, signed (R23). -/
  overlap : Int
  /-- Working register `offset`, never reduced (R23). -/
  offset : Int
  /-- The payload buffer `BUF[0..63]` (R24). -/
  buf : Vector Byte 64
  /-- The words of the command stream delivered so far, from index 0 (R25, R70). -/
  stream : List Word
  /-- Responses emitted and not yet taken by the host, oldest first (R160). -/
  responses : List Response
  /-- Transport calls made, oldest first (R41, R42). -/
  calls : List Call
  /-- The write transaction in flight (R54). -/
  inFlight : Option Flight
  /-- The chip's register image (R50). -/
  reg : Memory
  /-- The chip's register pointer, where the spec gives its value (R37). -/
  pointer : Option Byte
  /-- The model's own: statuses the transport will report, oldest first (R11). -/
  statusIn : List TxnStatus
  /-- The model's own: bytes the chip will return for reads of unknown registers, oldest first (R11). -/
  byteIn : List Byte
  /-- The model's own: free statuses taken from Config so far. -/
  statusDraws : Nat
  /-- The model's own: free bytes taken from Config so far. -/
  byteDraws : Nat
  deriving DecidableEq, Repr

/-- The states in which the CTE has no enabled step, by name. -/
inductive Fault where
  /-- Raised by `step`: the stream holds no unread word (R176). Stuck, not an exception; safe: the machine waits
  where the model stops (log 15). -/
  | awaitingCommand
  /-- Raised by `step`: the header has arrived and an operand word has not (R79). Stuck, not an exception; safe: the
  machine waits where the model stops (log 15). -/
  | truncatedCommand
  deriving DecidableEq, Repr

/-- Why an instruction has no meaning. -/
inductive Refusal where
  /-- Raised by an arm of `exec` whose instruction has no meaning yet; no arm of this model raises it. Safe: the
  model stops. -/
  | notModelled (mnemonic : String)
  deriving DecidableEq, Repr

/-- The straps at reset: the defaults of R6, and the free value of `DEFAULT_FREQ_HZ` (log 3). -/
def Straps.reset : Straps where
  deviceAddr := deviceAddrDefault
  hasCfg := hasCfgDefault
  prescaleSleepBracket := prescaleSleepBracketDefault
  defaultFreqHz := Config.defaultFreqHz
  setAllEmpty := setAllEmptyDefault
  prescalerNeedsSleep := prescalerNeedsSleepDefault

/-- The machine right after reset (R38, R190, R191): idle, `pc` 0, no response pending, no transaction made or
in flight, every chip register unknown. `latches`, the working registers and `buf` are DESIGN CHOICE zeros, unsafe
(log 4); `stream`, `statusIn`, `byteIn`, `statusDraws` and `byteDraws` are the model's own (log 1, log 8). -/
def State.reset : State where
  straps := Straps.reset
  pc := 0
  latches := Vector.replicate 16 0
  dimmedCount := 0
  totalDimmedTicks := 0
  overlap := 0
  offset := 0
  buf := Vector.replicate 64 0
  stream := []
  responses := []
  calls := []
  inFlight := none
  reg := []
  pointer := none
  statusIn := []
  byteIn := []
  statusDraws := 0
  byteDraws := 0

end Sys2Proof.Machine
end

