-- ==== Sys2Proof/Machine/Flags.lean ====
section
/-! DEFINITION. The CTE has no flags and no condition codes (R26): no definition here is a flag of the CTE. What the
spec gives in their place are the mode bits of the chip by mask (R29, R30), their readings in the register image,
and the 2-bit status codes (R160). -/

namespace Sys2Proof.Machine

/-- MODE1 RESTART (R29). -/
def maskRestart : Byte := 0x80

/-- MODE1 EXTCLK (R29); never written to 1 by the CTE. -/
def maskExtclk : Byte := 0x40

/-- MODE1 AUTO-INCREMENT (R29). -/
def maskAutoIncrement : Byte := 0x20

/-- MODE1 SLEEP (R29). -/
def maskSleep : Byte := 0x10

/-- MODE2 OUTPUT-INVERT (R30). -/
def maskOutputInvert : Byte := 0x10

/-- MODE2 OUTPUT-CHANGE-ON-ACK (R30). -/
def maskOutputChangeOnAck : Byte := 0x08

/-- MODE2 TOTEM-POLE (R30). -/
def maskTotemPole : Byte := 0x04

/-- The byte INIT writes to MODE1: RESTART or-ed with AUTO-INCREMENT (R102). -/
def initMode1 : Byte := maskRestart ||| maskAutoIncrement

/-- A mode byte with the bits of a mask set (R103, R104). -/
def setBits (mask m : Byte) : Byte := m ||| mask

/-- A mode byte with the bits of a mask cleared (R104). -/
def clearBits (mask m : Byte) : Byte := m &&& ~~~mask

/-- MODE2 with the drive bit SETM asks for (R104). -/
def withOutputMode (totemPole : Bool) (m : Byte) : Byte :=
  if totemPole then setBits maskTotemPole m else clearBits maskTotemPole m

/-- The 2-bit status code of a response (R160). -/
def Response.code : Response → BitVec 2
  | .ok => 0
  | .invalidArgument => 1
  | .transportFault => 2
  | .illegalCommand => 3

end Sys2Proof.Machine
end

