-- ==== Sys2Proof/Machine/Ops.lean ====
section
/-! DEFINITION. The named operations: the chip's register image (R50 to R52), the transport port (R41, R42), the
operand latches and the payload buffer (R22, R24), the end of a command and the raising of an exception (R160,
R167), and what the host does between commands (R11, R190). -/

namespace Sys2Proof.Machine

/-! ### The chip's register image -/

/-- The canonical form of a register image: addresses strictly rising. An unlisted address has no known byte, so no
entry can equal what an unlisted address reads as. -/
abbrev Memory.wf (m : Memory) : Prop := m.Pairwise fun p q => p.1 < q.1

/-- The known byte at a register address, if there is one (R50). -/
def Memory.read : Memory → Nat → Option Byte
  | [], _ => none
  | c :: m, a => if c.1 = a then some c.2 else Memory.read m a

/-- The image with a known byte put at an address. -/
def Memory.write (a : Nat) (b : Byte) : Memory → Memory
  | [] => [(a, b)]
  | c :: m =>
    if a < c.1 then (a, b) :: c :: m
    else if a = c.1 then (a, b) :: m
    else c :: Memory.write a b m

/-- The image with the byte at an address made unknown (R51, R52). -/
def Memory.forget (a : Nat) (m : Memory) : Memory := m.filter fun c => c.1 ≠ a

/-- The image with consecutive bytes stored from an address on (R50). -/
def Memory.writeBlock (a : Nat) : List Byte → Memory → Memory
  | [], m => m
  | b :: bs, m => Memory.writeBlock (a + 1) bs (Memory.write a b m)

/-- The image with `n` consecutive registers made unknown (R51, R52). -/
def Memory.forgetBlock (a : Nat) : Nat → Memory → Memory
  | 0, m => m
  | n + 1, m => Memory.forgetBlock (a + 1) n (Memory.forget a m)

/-- Whether the bits of a mask are known to be set in MODE1. -/
def Memory.mode1Has (mask : Byte) (m : Memory) : Bool :=
  match Memory.read m addrMode1.toNat with
  | some b => (b &&& mask) == mask
  | none => false

/-- Whether MODE1.AUTO-INCREMENT is known to be 1 (R50, R51). -/
def Memory.autoIncrement (m : Memory) : Bool := Memory.mode1Has maskAutoIncrement m

/-- Whether MODE1.SLEEP is known to be 1 (R29, R196). -/
def Memory.asleep (m : Memory) : Bool := Memory.mode1Has maskSleep m

/-- Whether a write that starts at PRESCALER may have no effect: the chip needs sleep for it and is not known to be
asleep (R196, U2; log 13). -/
def prescalerMayIgnore (needsSleep : Bool) (addr : Nat) (m : Memory) : Bool :=
  needsSleep && addr == addrPrescaler.toNat && !Memory.asleep m

/-- The register image after a write transaction: R52 on a fault; R50 where it applies; R51 for several bytes while
AUTO-INCREMENT is not known to be 1; U2 for a PRESCALER write that may have no effect. -/
def chipWrite (needsSleep : Bool) (status : TxnStatus) (addr : Nat) (data : List Byte) (m : Memory) : Memory :=
  match status with
  | .fault => Memory.forgetBlock addr data.length m
  | .ok =>
    if prescalerMayIgnore needsSleep addr m then Memory.forgetBlock addr data.length m
    else if data.length ≤ 1 ∨ Memory.autoIncrement m = true then Memory.writeBlock addr data m
    else Memory.forgetBlock addr data.length m

/-! ### Free inputs -/

/-- The status the transport gives the next transaction: the next one of `statusIn`, else a free value (R11; log 6). -/
def nextStatus (s : State) : TxnStatus :=
  match s.statusIn with
  | status :: _ => status
  | [] => Config.freeStatus s.statusDraws

/-- How many free values have been taken once one more input is: one more only where no input was given. -/
def drawsAfter {α : Type} (given : List α) (draws : Nat) : Nat :=
  match given with
  | [] => draws + 1
  | _ :: _ => draws

/-- The state with that status taken. -/
def takeStatus (s : State) : State :=
  { s with statusIn := s.statusIn.tail, statusDraws := drawsAfter s.statusIn s.statusDraws }

/-- The byte the chip gives for a register of unknown content: the next one of `byteIn`, else a free value (R11, R38;
log 7). -/
def nextByte (s : State) : Byte :=
  match s.byteIn with
  | b :: _ => b
  | [] => Config.freeByte s.byteDraws

/-- The state with that byte taken. -/
def takeByte (s : State) : State :=
  { s with byteIn := s.byteIn.tail, byteDraws := drawsAfter s.byteIn s.byteDraws }

/-! ### The transport port -/

/-- The state with a call added to the record of the transport port. -/
def logCall (c : Call) (s : State) : State := { s with calls := s.calls ++ [c] }

/-- `beginTransaction(DEVICE_ADDR)` (R41). -/
def beginTransaction (s : State) : State :=
  logCall (.beginTransaction s.straps.deviceAddr)
    { s with inFlight := some { device := s.straps.deviceAddr, sent := [] }, pointer := none }

/-- Where the chip's register pointer stands after a byte of the transaction in flight: the first byte sets it, a
data byte advances it while AUTO-INCREMENT is known to be 1 (R37); otherwise the spec gives no value. DESIGN CHOICE,
safe: how the pointer goes on past 0xFF is not in the source, and here its 8 bits wrap to 0x00, which no command
reaches (log 22). -/
def pointerAfter (b : Byte) (s : State) : Option Byte :=
  match s.inFlight with
  | none => none
  | some f =>
    match f.sent with
    | [] => some b
    | _ :: _ => if Memory.autoIncrement s.reg then s.pointer.map (· + 1) else none

/-- `writeByte(b)` (R41). -/
def writeByte (b : Byte) (s : State) : State :=
  logCall (.writeByte b)
    { s with
      inFlight := s.inFlight.map fun f => { f with sent := f.sent ++ [b] }
      pointer := pointerAfter b s }

/-- The register image when the transaction in flight ends with a status. -/
def deliver (status : TxnStatus) (s : State) : Memory :=
  match s.inFlight with
  | none => s.reg
  | some f =>
    match f.sent with
    | [] => s.reg
    | addr :: data => chipWrite s.straps.prescalerNeedsSleep status addr.toNat data s.reg

/-- `endTransaction() -> status` (R41). -/
def endTransaction (s : State) : TxnStatus × State :=
  let status := nextStatus s
  (status, logCall (.endTransaction status) { takeStatus s with reg := deliver status s, inFlight := none })

/-- `requestRead(DEVICE_ADDR, count)` (R42). -/
def requestRead (count : Nat) (s : State) : State := logCall (.requestRead s.straps.deviceAddr count) s

/-- `readByte() -> byte`: the known byte at the register pointer, else a free one (R42, R50; log 7). -/
def readByte (s : State) : Byte × State :=
  match s.pointer.bind fun p => Memory.read s.reg p.toNat with
  | some b => (b, logCall (.readByte b) s)
  | none => (nextByte s, logCall (.readByte (nextByte s)) (takeByte s))

/-- Between transactions the spec gives the register pointer no value (R37; log 9). -/
def dropPointer (s : State) : State := { s with pointer := none }

/-- `MemWrite(addr, n, bytes)` with `n` the number of bytes: the call sequence of R41. -/
def memWrite (addr : Byte) (bytes : List Byte) (s : State) : TxnStatus × State :=
  let opened := writeByte addr (beginTransaction s)
  let sent := bytes.foldl (fun t b => writeByte b t) opened
  let ended := endTransaction sent
  (ended.1, dropPointer ended.2)

/-- The register a faulted read addressed becomes unknown (R167, R198; log 29). -/
def loseRegister (addr : Byte) (s : State) : State := { s with reg := Memory.forget addr.toNat s.reg }

/-- `MemRead(addr, 1)`: the call sequence of R42. Where the address phase faults there is no byte, and the register
addressed is unknown afterwards (R167, R198; log 29). -/
def memRead (addr : Byte) (s : State) : Option Byte × State :=
  let ended := endTransaction (writeByte addr (beginTransaction s))
  match ended.1 with
  | .fault => (none, dropPointer (loseRegister addr ended.2))
  | .ok =>
    let got := readByte (requestRead 1 ended.2)
    (some got.1, dropPointer got.2)

/-- Go on with the next transaction of a command unless one has faulted (R162). -/
def andThen (r : TxnStatus × State) (k : State → TxnStatus × State) : TxnStatus × State :=
  match r.1 with
  | .ok => k r.2
  | .fault => (.fault, r.2)

/-- Go on with the byte of a read unless its address phase faulted (R162). -/
def withByte (r : Option Byte × State) (k : Byte → State → TxnStatus × State) : TxnStatus × State :=
  match r.1 with
  | some b => k b r.2
  | none => (.fault, r.2)

/-! ### Operand latches and payload buffer -/

/-- `V[i] <- values[i]` from index `i` on (R22, R120). -/
def loadLatches (i : Nat) : List Word → Vector Word 16 → Vector Word 16
  | [], v => v
  | w :: ws, v => loadLatches (i + 1) ws (v.setIfInBounds i w)

/-- `V[0 .. count-1]` (R22). -/
def latchValues (count : Nat) (s : State) : List Word := s.latches.toList.take count

/-- `BUF[i ..] <- bytes` (R24). -/
def loadBuf (i : Nat) : List Byte → Vector Byte 64 → Vector Byte 64
  | [], v => v
  | b :: bs, v => loadBuf (i + 1) bs (v.setIfInBounds i b)

/-- The state with `BUF[0 ..]` filled (R24). -/
def fillBuf (bytes : List Byte) (s : State) : State := { s with buf := loadBuf 0 bytes s.buf }

/-- `BUF[0 .. n-1]` (R24). -/
def bufBytes (n : Nat) (s : State) : List Byte := s.buf.toList.take n

/-! ### The end of a command -/

/-- The end of a command: one response, and `pc` advances by the command's length (R25, R160). -/
def finish (r : Response) (length : Nat) (s : State) : State :=
  { s with responses := s.responses ++ [r], pc := s.pc + length }

/-- `respond OK` (R9). -/
def respondOk (length : Nat) (s : State) : State := finish .ok length s

/-- `raise`: taking an exception, the one operation of R167. The response carries the code, `pc` advances by the
command's length, nothing is saved and no mode changes. There is no return from an exception (R168). -/
def raiseException (code : Response) (length : Nat) (s : State) : State := finish code length s

/-- The end of a command that issued transactions: TransportFault where one faulted, else OK (R162). -/
def conclude (length : Nat) (r : TxnStatus × State) : State :=
  match r.1 with
  | .ok => respondOk length r.2
  | .fault => raiseException .transportFault length r.2

/-! ### The decoder's part of a step -/

/-- The first command of the unread words (R25, R70). -/
def fetch (s : State) : Fetched := decode s.straps.hasCfg (s.stream.drop s.pc)

/-- An illegal command: one word, no transaction, IllegalCommand (R77, R163). -/
def illegalCommand (s : State) : State := raiseException .illegalCommand 1 s

/-- The stream with words put where the next command is fetched; where the stream is shorter, zero words stand
before them. -/
def placeWords (ws : List Word) (s : State) : State :=
  let before := s.stream.take s.pc
  { s with
    stream := before ++ List.replicate (s.pc - before.length) 0 ++ ws ++ s.stream.drop (s.pc + ws.length) }

/-! ### What the host and the chip do between commands -/

/-- The host delivers more words (R11, R70). -/
def State.feed (ws : List Word) (s : State) : State := { s with stream := s.stream ++ ws }

/-- The host takes the oldest response, if there is one (R11, R160). -/
def State.takeResponse (s : State) : Option Response × State :=
  match s.responses with
  | [] => (none, s)
  | r :: rest => (some r, { s with responses := rest })

/-- The host resets the CTE (R190): the CTE is as at reset, and the chip keeps what was last written (R193). The
record of calls, the straps and the free inputs stay (log 23). The chip is not reset with it (log 30). -/
def State.hostReset (s : State) : State :=
  { State.reset with
    straps := s.straps
    calls := s.calls
    reg := s.reg
    statusIn := s.statusIn
    byteIn := s.byteIn
    statusDraws := s.statusDraws
    byteDraws := s.byteDraws }

/-- The chip resets: every register is an unknown byte (R38, R191), and the CTE is as it was. DESIGN CHOICE, unsafe: the
spec does not say when, and no step of the CTE does it (log 30). -/
def State.chipReset (s : State) : State := { s with reg := [], pointer := none }

end Sys2Proof.Machine
end

