-- ==== Sys2Proof/Machine/Cfg.lean ====
section
/-! DEFINITION. The CFG extension: INIT, SETF and SETM (41_init_mode). -/

namespace Sys2Proof.Machine

/-- The clamp of the frequency operand (R101). -/
def clampFreq (f : Nat) : Nat := if f < freqMin then freqMin else if freqMax < f then freqMax else f

/-- The integer form of `prescale` (R101; log 24). -/
def prescaleNat (f : Nat) : Nat :=
  (2 * oscHz + 4096 * clampFreq f) / (2 * 4096 * clampFreq f) - 1

/-- `prescale`, as the byte written to PRESCALER (R101). -/
def prescale (f : Word) : Byte := BitVec.ofNat 8 (prescaleNat f.toNat)

/-- The sleep bracket around a PRESCALER write (R103): read MODE1, write it with SLEEP set, write PRESCALER, write
back the byte read. -/
def bracketedPrescaler (p : Byte) (s : State) : TxnStatus × State :=
  withByte (memRead addrMode1 s) fun m s1 =>
    andThen (memWrite addrMode1 [setBits maskSleep m] s1) fun s2 =>
      andThen (memWrite addrPrescaler [p] s2) fun s3 =>
        memWrite addrMode1 [m] s3

/-- `set_frequency` (R103). -/
def setFrequency (f : Word) (s : State) : TxnStatus × State :=
  if s.straps.prescaleSleepBracket then bracketedPrescaler (prescale f) s
  else memWrite addrPrescaler [prescale f] s

/-- INIT (R102). -/
def execInit (s : State) : Host.Outcome State Fault Refusal :=
  .next (conclude 1 (andThen (memWrite addrMode1 [initMode1] s) (setFrequency s.straps.defaultFreqHz)))

/-- SETF (R103). -/
def execSetf (hz : Word) (s : State) : Host.Outcome State Fault Refusal :=
  .next (conclude 2 (setFrequency hz s))

/-- SETM (R104): read-modify-write of MODE2. -/
def execSetm (totemPole : Bool) (s : State) : Host.Outcome State Fault Refusal :=
  .next (conclude 1
    (withByte (memRead addrMode2 s) fun m s1 => memWrite addrMode2 [withOutputMode totemPole m] s1))

end Sys2Proof.Machine
end

