-- ==== Sys2Proof/Machine/Operands.lean ====
section
/-! DEFINITION. The pure functions of 40_primitives: packing, channel addresses, classification and duty pairs. -/

namespace Sys2Proof.Machine

/-- A channel's timing pair (R33). -/
structure Pair where
  on : Word
  off : Word
  deriving DecidableEq, Repr

/-- The classes of a duty value (R92). -/
inductive DutyClass where
  | off
  | on
  | dimmed
  deriving DecidableEq, Repr

/-- `pack13`: low byte bits 7:0, high byte bits 12:8 under three zeros (R90). -/
def pack13 (v : Word) : Byte × Byte := (v.extractLsb' 0 8, 0#3 ++ v.extractLsb' 8 5)

/-- `chan_base` (R91), the register address of a channel. -/
def chanBase (ch : Nat) : Byte := BitVec.ofNat 8 (firstLedBase + regsPerChannel * ch)

/-- `classify` (R92). -/
def classify (v : Word) : DutyClass :=
  if v.toNat = 0 then .off
  else if dutyFull ≤ v.toNat then .on
  else .dimmed

/-- The pair of a fully-off channel (R93). -/
def pairOff : Pair := { on := 0, off := force }

/-- The pair of a fully-on channel (R93). -/
def pairOn : Pair := { on := force, off := 0 }

/-- `pair_bytes`: the four bytes of one channel in register order (R94, R32). -/
def pairBytes (p : Pair) : List Byte :=
  [(pack13 p.on).1, (pack13 p.on).2, (pack13 p.off).1, (pack13 p.off).2]

/-- `duty_pair`: the single-channel policy (R95). -/
def dutyPair (v : Word) : Pair :=
  match classify v with
  | .off => pairOff
  | .on => pairOn
  | .dimmed => { on := 0, off := v }

/-- The write of one channel: `BUF[0..3]` filled with the pair's bytes and written at the channel's base (R110). -/
def writeChannel (ch : Byte) (p : Pair) (s : State) : TxnStatus × State :=
  let filled := fillBuf (pairBytes p) s
  memWrite (chanBase ch.toNat) (bufBytes 4 filled) filled

end Sys2Proof.Machine
end

