-- ==== Sys2Proof/Machine/Alloc.lean ====
section
/-! DEFINITION. The pure functions of the multi-channel allocator (43_multi_channel, R121 to R125). -/

namespace Sys2Proof.Machine

/-- `floor_div`: division rounding toward negative infinity (R8, C1; log 17). -/
def floorDiv (a b : Int) : Int := a.fdiv b

/-- Number of dimmed channels (R121). -/
def countDimmed : List Word → Nat
  | [] => 0
  | v :: vs =>
    match classify v with
    | .dimmed => countDimmed vs + 1
    | .off => countDimmed vs
    | .on => countDimmed vs

/-- Sum of the dimmed channels' duty values (R121). -/
def sumDimmed : List Word → Nat
  | [] => 0
  | v :: vs =>
    match classify v with
    | .dimmed => v.toNat + sumDimmed vs
    | .off => sumDimmed vs
    | .on => sumDimmed vs

/-- `overlap_of` (R122), used only where `dimmedCount` is not 0. -/
def overlapOf (dimmedCount totalDimmedTicks : Nat) : Int := floorDiv (totalDimmedTicks - 4095) dimmedCount

/-- A tick position: an integer reduced modulo the period (R123). -/
def tickOf (x : Int) : Word := BitVec.ofNat 16 (x % (periodTicks : Int)).toNat

/-- The pair of a dimmed channel whose turn comes at `offset` (R123). -/
def dimmedPair (offset : Int) (v : Word) : Pair := { on := tickOf offset, off := tickOf (offset + v.toNat) }

/-- How `offset` advances past a dimmed channel (R123). -/
def advance (overlap offset : Int) (v : Word) : Int := offset + periodTicks + v.toNat - overlap

/-- `walk` (R123, R124): the pairs of the channels in order, and the running `offset` at the end. -/
def walk (overlap : Int) : Int → List Word → List Pair × Int
  | offset, [] => ([], offset)
  | offset, v :: vs =>
    match classify v with
    | .dimmed =>
      let r := walk overlap (advance overlap offset v) vs
      (dimmedPair offset v :: r.1, r.2)
    | .off =>
      let r := walk overlap offset vs
      (pairOff :: r.1, r.2)
    | .on =>
      let r := walk overlap offset vs
      (pairOn :: r.1, r.2)

/-- The payload of a block write: the pairs packed one after another (R125). -/
def packPairs (ps : List Pair) : List Byte := ps.flatMap pairBytes

end Sys2Proof.Machine
end

