-- ==== Sys2Proof/Machine/Multi.lean ====
section
/-! DEFINITION. The multi-channel command SETA (43_multi_channel). -/

namespace Sys2Proof.Machine

/-- Steps 1 and 2: the operands in the latches, tallied (R120, R121). -/
def tally (values : List Word) (s : State) : State :=
  let loaded := { s with latches := loadLatches 0 values s.latches }
  { loaded with
    dimmedCount := countDimmed (latchValues values.length loaded)
    totalDimmedTicks := sumDimmed (latchValues values.length loaded) }

/-- Step 3: `overlap`, not evaluated when `dimmedCount` is 0 (R120, R122, R128). -/
def computeOverlap (s : State) : State :=
  if s.dimmedCount = 0 then s else { s with overlap := overlapOf s.dimmedCount s.totalDimmedTicks }

/-- Steps 4 and 5: the walk over the latches, `offset` starting at 0 (R123, R124). -/
def walkLatches (count : Nat) (s : State) : List Pair × Int := walk s.overlap 0 (latchValues count s)

/-- Steps 4 to 6: the walk, and its pairs packed into `BUF` (R123, R124, R125). -/
def packWalk (count : Nat) (s : State) : State :=
  fillBuf (packPairs (walkLatches count s).1) { s with offset := (walkLatches count s).2 }

/-- The allocator: everything SETA does before its block write (R120). -/
def allocate (values : List Word) (s : State) : State :=
  packWalk values.length (computeOverlap (tally values s))

/-- The block write, or nothing for a count of 0 under `no_transaction` (R120, R125, R131). -/
def blockWrite (count : Nat) (s : State) : TxnStatus × State :=
  if count = 0 ∧ s.straps.setAllEmpty = .noTransaction then (.ok, s)
  else memWrite (chanBase 0) (bufBytes (4 * count) s) s

/-- SETA (R120). -/
def execSeta (values : List Word) (s : State) : Host.Outcome State Fault Refusal :=
  if 16 < values.length then .next (raiseException .invalidArgument (1 + values.length) s)
  else .next (conclude (1 + values.length) (blockWrite values.length (allocate values s)))

end Sys2Proof.Machine
end

