-- ==== Sys2Proof/Machine/Single.lean ====
section
/-! DEFINITION. The single-channel commands SETT and SETD (42_single_channel). -/

namespace Sys2Proof.Machine

/-- SETT (R110): a raw pair for one channel. -/
def execSett (ch : Byte) (on off : Word) (s : State) : Host.Outcome State Fault Refusal :=
  if 15 < ch.toNat then .next (raiseException .invalidArgument 3 s)
  else .next (conclude 3 (writeChannel ch { on := on, off := off } s))

/-- SETD (R111): the pair of the saturation policy for one channel. -/
def execSetd (ch : Byte) (value : Word) (s : State) : Host.Outcome State Fault Refusal :=
  if 15 < ch.toNat then .next (raiseException .invalidArgument 2 s)
  else .next (conclude 2 (writeChannel ch (dutyPair value) s))

end Sys2Proof.Machine
end

