-- ==== Sys2Proof/Machine/Dispatch.lean ====
section
/-! DEFINITION. One arm per command. -/

namespace Sys2Proof.Machine

def exec (i : Instr) (s : State) : Host.Outcome State Fault Refusal :=
  match i with
  | .sett ch on off => Sys2Proof.Machine.execSett ch on off s
  | .setd ch value => Sys2Proof.Machine.execSetd ch value s
  | .seta values => Sys2Proof.Machine.execSeta values s
  | .init => Sys2Proof.Machine.execInit s
  | .setf hz => Sys2Proof.Machine.execSetf hz s
  | .setm totemPole => Sys2Proof.Machine.execSetm totemPole s

end Sys2Proof.Machine
end

