-- ==== Sys2Proof/Machine/Step.lean ====
section
/-! DEFINITION. One step: the next command of the stream, executed to completion (R11, R54). -/

namespace Sys2Proof.Machine

/-- One step. A command is executed; an illegal command takes IllegalCommand (R163); with no whole command the CTE has
no enabled step (R79, R176). -/
def step (s : State) : Host.Outcome State Fault Refusal :=
  match fetch s with
  | .command i _ => exec i s
  | .illegal _ _ => .next (illegalCommand s)
  | .truncated => .fault .truncatedCommand
  | .empty => .fault .awaitingCommand

/-- `s` with an opcode-table row's bits as the next command of its stream. -/
def State.withFetchWord (s : State) (nbits w : Nat) : State := placeWords (tableWords nbits w) s

end Sys2Proof.Machine
end

