-- ==== Sys2Proof/Machine/Assembler.lean ====
section
/-! DEFINITION. The assembler text of R82, one command a line, over lists of characters. -/

namespace Sys2Proof.Machine

/-- The words of an assembler line; none where an operand does not fit its field (R82). -/
def asmWords : AsmLine → Option (List Word)
  | .sett ch on off =>
    if ch < 256 ∧ on < 65536 ∧ off < 65536 then
      some [headerWord .sett (BitVec.ofNat 8 ch), BitVec.ofNat 16 on, BitVec.ofNat 16 off]
    else none
  | .setd ch value =>
    if ch < 256 ∧ value < 65536 then some [headerWord .setd (BitVec.ofNat 8 ch), BitVec.ofNat 16 value]
    else none
  | .seta values =>
    if values.length < 256 ∧ values.all (· < 65536) then
      some (headerWord .seta (BitVec.ofNat 8 values.length) :: values.map (BitVec.ofNat 16))
    else none
  | .init => some [headerWord .init 0]
  | .setf hz => if hz < 65536 then some [headerWord .setf 0, BitVec.ofNat 16 hz] else none
  | .setm t => if t < 2 then some [headerWord .setm (BitVec.ofNat 8 t)] else none
  | .word x => if x < 65536 then some [BitVec.ofNat 16 x] else none

/-- A decimal digit's value. -/
def decDigit (c : Char) : Option Nat :=
  if '0'.toNat ≤ c.toNat ∧ c.toNat ≤ '9'.toNat then some (c.toNat - '0'.toNat) else none

/-- A hexadecimal digit's value, in either case. -/
def hexDigit (c : Char) : Option Nat :=
  if 'a'.toNat ≤ c.toNat ∧ c.toNat ≤ 'f'.toNat then some (c.toNat - 'a'.toNat + 10)
  else if 'A'.toNat ≤ c.toNat ∧ c.toNat ≤ 'F'.toNat then some (c.toNat - 'A'.toNat + 10)
  else decDigit c

/-- The number that digits of a base spell after a number already read. -/
def readDigits (base : Nat) (digit : Char → Option Nat) : Nat → List Char → Option Nat
  | acc, [] => some acc
  | acc, c :: cs =>
    match digit c with
    | some d => readDigits base digit (acc * base + d) cs
    | none => none

/-- A number: decimal, or hexadecimal after `0x` (R82). -/
def readNumber : List Char → Option Nat
  | [] => none
  | '0' :: 'x' :: [] => none
  | '0' :: 'x' :: cs => readDigits 16 hexDigit 0 cs
  | cs => readDigits 10 decDigit 0 cs

/-- Whether a character is a blank. -/
def isBlank (c : Char) : Bool := c = ' ' || c = '\t'

/-- The characters without leading and trailing blanks. -/
def trimBlanks (cs : List Char) : List Char :=
  ((cs.dropWhile isBlank).reverse.dropWhile isBlank).reverse

/-- The pieces between commas. -/
def splitCommas : List Char → List (List Char)
  | [] => [[]]
  | c :: cs =>
    if c = ',' then [] :: splitCommas cs
    else
      match splitCommas cs with
      | piece :: pieces => (c :: piece) :: pieces
      | [] => [[c]]

/-- The operands of a line: none at all, or numbers separated by commas (R82). -/
def readOperands (cs : List Char) : Option (List Nat) :=
  match trimBlanks cs with
  | [] => some []
  | text => (splitCommas text).mapM fun piece => readNumber (trimBlanks piece)

/-- The line that a mnemonic and operands spell (R82). -/
def asmLine (mnemonic : List Char) (operands : List Nat) : Option AsmLine :=
  if mnemonic = ['S', 'E', 'T', 'A'] then some (.seta operands)
  else if mnemonic = ['S', 'E', 'T', 'T'] then
    match operands with
    | [ch, on, off] => some (.sett ch on off)
    | _ => none
  else if mnemonic = ['S', 'E', 'T', 'D'] then
    match operands with
    | [ch, value] => some (.setd ch value)
    | _ => none
  else if mnemonic = ['I', 'N', 'I', 'T'] then
    match operands with
    | [] => some .init
    | _ => none
  else if mnemonic = ['S', 'E', 'T', 'F'] then
    match operands with
    | [hz] => some (.setf hz)
    | _ => none
  else if mnemonic = ['S', 'E', 'T', 'M'] then
    match operands with
    | [t] => some (.setm t)
    | _ => none
  else if mnemonic = ['.', 'w', 'o', 'r', 'd'] then
    match operands with
    | [x] => some (.word x)
    | _ => none
  else none

/-- The words of one line of text; a line that is blank up to its comment has none, and none at all is an assembler
error (R82). -/
def assembleLine (line : List Char) : Option (List Word) :=
  let text := trimBlanks (line.takeWhile fun c => c ≠ ';')
  if text = [] then some []
  else
    match readOperands (text.dropWhile fun c => !isBlank c) with
    | none => none
    | some operands =>
      match asmLine (text.takeWhile fun c => !isBlank c) operands with
      | none => none
      | some parsed => asmWords parsed

/-- The words of a text, line by line (R82). -/
def assemble : List (List Char) → Option (List Word)
  | [] => some []
  | line :: lines =>
    match assembleLine line, assemble lines with
    | some ws, some more => some (ws ++ more)
    | _, _ => none

end Sys2Proof.Machine
end

