-- ==== Sys2Proof/Machine/Chip.lean ====
section
/-! DEFINITION. What the document says the chip makes of its registers (R33, R34, R171): readings of the register
image. No command depends on them. The spec does not say what the outputs do while MODE1.SLEEP is 1 (R175); these
readings are of the timing registers alone (log 28). -/

namespace Sys2Proof.Machine

/-- What is known of a channel's output (R34): what its timing registers ask for, whatever MODE1.SLEEP is (log 28). -/
inductive ChannelOutput where
  /-- One of the channel's four registers is unknown. -/
  | unknown
  /-- ON carries the force flag. -/
  | alwaysOn
  /-- OFF carries the force flag. -/
  | alwaysOff
  /-- Active from a tick on for a number of ticks of each period. -/
  | window (start duration : Nat)
  /-- Both force flags, or ON = OFF without one: the source does not say (R34, U11). -/
  | notGiven
  deriving DecidableEq, Repr

/-- Whether a 13-bit timing value carries the force flag (R33). -/
def forced (v : BitVec 13) : Bool := v.getLsbD 12

/-- A 13-bit timing value from its two registers (R44). -/
def timingValue (lo hi : Byte) : BitVec 13 := hi.extractLsb' 0 5 ++ lo

/-- The output that a pair of timing values gives (R34). DESIGN CHOICE, unsafe while the chip is asleep: it does not
depend on SLEEP (log 28). -/
def outputOf (on off : BitVec 13) : ChannelOutput :=
  match forced on, forced off with
  | true, true => .notGiven
  | true, false => .alwaysOn
  | false, true => .alwaysOff
  | false, false =>
    if on = off then .notGiven
    else .window on.toNat ((off.toNat + periodTicks - on.toNat) % periodTicks)

/-- The known ON and OFF values of a channel (R32). -/
def channelPair (m : Memory) (ch : Nat) : Option (BitVec 13 × BitVec 13) :=
  let base := (chanBase ch).toNat
  match Memory.read m base, Memory.read m (base + 1), Memory.read m (base + 2), Memory.read m (base + 3) with
  | some onL, some onH, some offL, some offH => some (timingValue onL onH, timingValue offL offH)
  | _, _, _, _ => none

/-- What is known of a channel's output from the register image (R34). DESIGN CHOICE, unsafe while the chip is asleep:
what the outputs do while MODE1.SLEEP is 1 is not in the source (R175), and this reads the channel's timing registers
whatever MODE1 is (log 28). -/
def channelOutput (m : Memory) (ch : Nat) : ChannelOutput :=
  match channelPair m ch with
  | some (on, off) => outputOf on off
  | none => .unknown

/-- The refresh rate, in hertz, that a prescaler byte produces (R171). -/
def refreshRateHz (p : Byte) : Rat := oscHz / (4096 * (p.toNat + 1))

end Sys2Proof.Machine
end

