-- ==== Sys2Proof/Safety.lean ====
section
/-! DEFINITION. What counts as a sound state, in the terms the statements use: the canonical register image, the
registers the CTE may know, reserved bits, the prescaler's range, the working registers' ranges, and a record of
transport calls that is a sequence of whole transactions. -/

namespace Sys2Proof.Machine

/-- The register image is in its canonical form. -/
abbrev State.memoryCanonical (s : State) : Prop := Memory.wf s.reg

/-- The register addresses the document describes (R27, R48). -/
abbrev documentedAddr (a : Nat) : Prop := a = 0x00 ∨ a = 0x01 ∨ (0x06 ≤ a ∧ a ≤ 0x45) ∨ a = 0xFE

/-- The CTE has given a known value to documented registers only (R27, R49). -/
abbrev State.onlyDocumented (s : State) : Prop := ∀ c ∈ s.reg, documentedAddr c.1

/-- The addresses of ON_H and OFF_H registers (R32). -/
abbrev highRegister (a : Nat) : Prop := 0x06 ≤ a ∧ a ≤ 0x45 ∧ a % 2 = 1

/-- Every known ON_H and OFF_H has its upper three bits 0 (R32, R44). -/
abbrev State.highBitsZero (s : State) : Prop := ∀ c ∈ s.reg, highRegister c.1 → c.2.toNat < 32

/-- A known PRESCALER is in 3 to 253 (R31). -/
abbrev State.prescalerInRange (s : State) : Prop := ∀ c ∈ s.reg, c.1 = 0xFE → 3 ≤ c.2.toNat ∧ c.2.toNat ≤ 253

/-- The working registers are in the ranges of R23. -/
abbrev State.workingInRange (s : State) : Prop :=
  s.dimmedCount ≤ 16 ∧ s.totalDimmedTicks ≤ 65504 ∧ -4094 ≤ s.overlap ∧ s.overlap ≤ 3838 ∧
    0 ≤ s.offset ∧ s.offset < 184260

/-- No transaction is in flight, and the spec gives the register pointer no value (R54, R190, R37). -/
abbrev State.idle (s : State) : Prop := s.inFlight = none ∧ s.pointer = none

/-- Where the transport port stands in a sequence of calls (R41, R42). -/
inductive PortPhase where
  /-- Between transactions. -/
  | idle
  /-- After `beginTransaction`, with the number of bytes written. -/
  | writing (sent : Nat)
  /-- After `requestRead` of one byte. -/
  | reading
  deriving DecidableEq, Repr

/-- The phase after one more call; none where the call does not belong there or addresses another device (R21, R41,
R42, R54). -/
def portStep (device : BitVec 7) (phase : PortPhase) (c : Call) : Option PortPhase :=
  match phase, c with
  | .idle, .beginTransaction d => if d = device then some (.writing 0) else none
  | .idle, .requestRead d n => if d = device ∧ n = 1 then some .reading else none
  | .writing n, .writeByte _ => some (.writing (n + 1))
  | .writing n, .endTransaction _ => if 1 ≤ n ∧ n ≤ 65 then some .idle else none
  | .reading, .readByte _ => some .idle
  | _, _ => none

/-- The phase after a sequence of calls. -/
def portRun (device : BitVec 7) : PortPhase → List Call → Option PortPhase
  | phase, [] => some phase
  | phase, c :: cs =>
    match portStep device phase c with
    | some next => portRun device next cs
    | none => none

/-- The calls made so far are whole transactions, one after another, each to `DEVICE_ADDR` and of at most one address
byte and 64 data bytes (R21, R24, R41, R42, R54). -/
abbrev State.callsWhole (s : State) : Prop := portRun s.straps.deviceAddr .idle s.calls = some .idle

/-- The calls of `MemWrite(addr, n, bytes)` with the status it got (R41). -/
def writeCalls (device : BitVec 7) (addr : Byte) (bytes : List Byte) (status : TxnStatus) : List Call :=
  .beginTransaction device :: .writeByte addr :: (bytes.map .writeByte ++ [.endTransaction status])

/-- The calls of a `MemRead(addr, 1)` that got a byte (R42). -/
def readCalls (device : BitVec 7) (addr b : Byte) : List Call :=
  [.beginTransaction device, .writeByte addr, .endTransaction .ok, .requestRead device 1, .readByte b]

/-- The calls of a `MemRead(addr, 1)` whose address phase faulted (R42). -/
def readFaultCalls (device : BitVec 7) (addr : Byte) : List Call :=
  [.beginTransaction device, .writeByte addr, .endTransaction .fault]

/-! ### Terms of the statements -/

/-- The status of the transaction after `k` more transactions, whatever else happens between (R11). -/
def statusAt : Nat → State → TxnStatus
  | 0, s => nextStatus s
  | k + 1, s => statusAt k (takeStatus s)

/-- The byte a bus read gets: the known one, or a free one (R42, R50). -/
def byteAt (addr : Byte) (s : State) : Byte := (Memory.read s.reg addr.toNat).getD (nextByte s)

/-- The free bytes left after a bus read that got a byte. -/
def byteInAfterRead (addr : Byte) (s : State) : List Byte :=
  if (Memory.read s.reg addr.toNat).isSome then s.byteIn else s.byteIn.tail

/-- How many free bytes have been taken after a bus read that got a byte. -/
def byteDrawsAfterRead (addr : Byte) (s : State) : Nat :=
  if (Memory.read s.reg addr.toNat).isSome then s.byteDraws else drawsAfter s.byteIn s.byteDraws

/-- The response that ends a command whose last transaction had a status (R160, R162). -/
def responseFor : TxnStatus → Response
  | .ok => .ok
  | .fault => .transportFault

/-- Straps, parameters and the command stream are as before (R21, R57). -/
abbrev sameFixed (s t : State) : Prop := t.straps = s.straps ∧ t.stream = s.stream

/-- The operand latches and the allocator's working registers are as before. -/
abbrev sameWorking (s t : State) : Prop :=
  t.latches = s.latches ∧ t.dimmedCount = s.dimmedCount ∧ t.totalDimmedTicks = s.totalDimmedTicks ∧
    t.overlap = s.overlap ∧ t.offset = s.offset

/-- `BUF` holds the bytes from index 0 on and is otherwise as before (R24). -/
abbrev bufHolds (bytes : List Byte) (s t : State) : Prop :=
  ∀ k, (h : k < 64) → t.buf[k] = (bytes[k]?).getD s.buf[k]

/-- The command answered with one response, and `pc` is past it (R25, R160). -/
abbrev answered (r : Response) (length : Nat) (s t : State) : Prop :=
  t.responses = s.responses ++ [r] ∧ t.pc = s.pc + length

/-- `k` transactions were made and no byte of unknown content was read: the free inputs they took, and the port is
idle after them. -/
abbrev tookStatuses (k : Nat) (s t : State) : Prop :=
  t.statusIn = s.statusIn.drop k ∧ t.statusDraws = s.statusDraws + (k - s.statusIn.length) ∧ t.idle

/-- No free byte was taken. -/
abbrev sameBytes (s t : State) : Prop := t.byteIn = s.byteIn ∧ t.byteDraws = s.byteDraws

/-- The register image after a bus write of several bytes away from PRESCALER: the bytes are known where the write
succeeded while AUTO-INCREMENT was known to be 1, unknown where it faulted or AUTO-INCREMENT was not known to be 1,
and every other register reads as before (R50, R51, R52). -/
abbrev regWritten (status : TxnStatus) (base : Nat) (bytes : List Byte) (s t : State) : Prop :=
  ∀ a, Memory.read t.reg a =
    if base ≤ a ∧ a < base + bytes.length then
      if status = .ok ∧ Memory.autoIncrement s.reg = true then bytes[a - base]? else none
    else Memory.read s.reg a

/-- The calls a command has made, where the record before it is known. -/
abbrev madeCalls (cs : List Call) (s t : State) : Prop := t.calls = s.calls ++ cs

/-- A command of the base set (R2). -/
def Base : Instr → Prop
  | .sett _ _ _ => True
  | .setd _ _ => True
  | .seta _ => True
  | .init => False
  | .setf _ => False
  | .setm _ => False

/-- R77 in the words of the rule, over the fields of a header word as numbers. -/
abbrev illegalHeader (hasCfg : Bool) (w : Word) : Prop :=
  let op := w.toNat / 4096
  let rsv := w.toNat / 256 % 16
  let arg := w.toNat % 256
  (op = 0x0 ∨ (0x4 ≤ op ∧ op ≤ 0x7) ∨ (0xB ≤ op ∧ op ≤ 0xF)) ∨ rsv ≠ 0 ∨
    ((op = 0x8 ∨ op = 0x9) ∧ arg ≠ 0) ∨ (op = 0xA ∧ 1 < arg) ∨
    ((op = 0x8 ∨ op = 0x9 ∨ op = 0xA) ∧ hasCfg = false)

/-- R74 in the words of the rule: the length that a header word gives its command. -/
def lengthByRule (hasCfg : Bool) (w : Word) : Nat :=
  if illegalHeader hasCfg w then 1
  else if w.toNat / 4096 = 0x1 then 3
  else if w.toNat / 4096 = 0x2 then 2
  else if w.toNat / 4096 = 0x3 then 1 + w.toNat % 256
  else if w.toNat / 4096 = 0x8 then 1
  else if w.toNat / 4096 = 0x9 then 2
  else 1

/-- The dimmed values among duty values (R92, R121). -/
def dimmedOnly (values : List Word) : List Word := values.filter fun v => classify v = .dimmed

/-- The sum over dimmed channels of value minus overlap: where the next dimmed channel starts, before reduction
(R123, closed form). -/
def startOf (overlap : Int) (values : List Word) : Int :=
  ((dimmedOnly values).map fun v => (v.toNat : Int) - overlap).sum

/-- The pairs SETA gives its values, the overlap of the values themselves (R120 to R124). -/
def setaPairs (values : List Word) : List Pair :=
  (walk (overlapOf (countDimmed values) (sumDimmed values)) 0 values).1

end Sys2Proof.Machine
end

