-- ==== Sys2Proof/Certificates/Slice0/Obligations.lean ====
section
/-! DEFINITION. The statements for the provers, from the numbered rules of spec/. -/

open Sys2Proof Sys2Proof.Machine

/-! ### Primitives -/

/-- R90. -/
def Obligations.PackingKeepsThirteenBits : Prop :=
  ∀ v : Word,
    (pack13 v).1.toNat = v.toNat % 256 ∧
    (pack13 v).2.toNat = v.toNat / 256 % 32 ∧
    (v.toNat ≤ 4095 → (pack13 v).2.toNat = v.toNat / 256 ∧ (pack13 v).2.getLsbD 4 = false) ∧
    (v.toNat = 4096 → pack13 v = (0x00, 0x10)) ∧
    (4097 ≤ v.toNat → v.toNat ≤ 8191 → (pack13 v).2.getLsbD 4 = true ∧
      (pack13 v).1.toNat + 256 * ((pack13 v).2.toNat % 16) = v.toNat % 4096) ∧
    pack13 v = pack13 (BitVec.ofNat 16 (v.toNat % 8192)) ∧
    pack13 1000 = (0xE8, 0x03) ∧ pack13 4095 = (0xFF, 0x0F) ∧ pack13 0xFFFF = (0xFF, 0x1F)

/-- R91. -/
def Obligations.ChannelBaseIsSixPlusFourTimesChannel : Prop :=
  (∀ ch : Nat, ch ≤ 15 → (chanBase ch).toNat = 0x06 + 4 * ch) ∧
  (List.range 16).map chanBase =
    [0x06, 0x0A, 0x0E, 0x12, 0x16, 0x1A, 0x1E, 0x22, 0x26, 0x2A, 0x2E, 0x32, 0x36, 0x3A, 0x3E, 0x42]

/-- R92, R93, R95. -/
def Obligations.DutyPairSaturatesAt4095 : Prop :=
  ∀ v : Word,
    (classify v = .off ↔ v.toNat = 0) ∧
    (classify v = .on ↔ 4095 ≤ v.toNat) ∧
    (classify v = .dimmed ↔ 1 ≤ v.toNat ∧ v.toNat ≤ 4094) ∧
    (v.toNat = 0 → dutyPair v = { on := 0, off := 4096 }) ∧
    (4095 ≤ v.toNat → dutyPair v = { on := 4096, off := 0 }) ∧
    (1 ≤ v.toNat → v.toNat ≤ 4094 → dutyPair v = { on := 0, off := v }) ∧
    pairOff = { on := 0, off := 4096 } ∧ pairOn = { on := 4096, off := 0 }

/-- R94. -/
def Obligations.PairBytesAreInRegisterOrder : Prop :=
  (∀ p : Pair,
    (pairBytes p).map BitVec.toNat =
      [p.on.toNat % 256, p.on.toNat / 256 % 32, p.off.toNat % 256, p.off.toNat / 256 % 32] ∧
    pairBytes p = [(pack13 p.on).1, (pack13 p.on).2, (pack13 p.off).1, (pack13 p.off).2]) ∧
  pairBytes pairOff = [0x00, 0x00, 0x00, 0x10] ∧
  pairBytes pairOn = [0x00, 0x10, 0x00, 0x00] ∧
  pairBytes { on := 0, off := 2048 } = [0x00, 0x00, 0x00, 0x08]

/-- R101: the prescaler byte is the integer nearest to 25_000_000 / (4096 fc) - 1, and never at an exact half, for
the clamped frequency fc; it is non-increasing, in 3 to 253, and has the values the rule lists. -/
def Obligations.PrescaleIsNearestInteger : Prop :=
  (∀ f : Word, ∃ fc : Nat,
    (f.toNat < 24 → fc = 24) ∧ (1526 < f.toNat → fc = 1526) ∧
    (24 ≤ f.toNat → f.toNat ≤ 1526 → fc = f.toNat) ∧
    (prescale f).toNat = (2 * 25000000 + 4096 * fc) / (2 * 4096 * fc) - 1 ∧
    2 * (25000000 - 4096 * fc * ((prescale f).toNat + 1) : Int) < 4096 * fc ∧
    -(4096 * fc : Int) < 2 * (25000000 - 4096 * fc * ((prescale f).toNat + 1) : Int) ∧
    3 ≤ (prescale f).toNat ∧ (prescale f).toNat ≤ 253) ∧
  (∀ f g : Word, f.toNat ≤ g.toNat → (prescale g).toNat ≤ (prescale f).toNat) ∧
  ([0, 23, 24, 25, 50, 60, 100, 200, 500, 1000, 1525, 1526, 2000, 65535] : List Word).map prescale =
    [253, 253, 253, 243, 121, 101, 60, 30, 11, 5, 3, 3, 3, 3]

/-- R33, R34: what a pair of 13-bit timing values says of the output; `notGiven` where the spec does not say. That any
13-bit value with its force flag counts is log 25, and that SLEEP plays no part is log 28. -/
def Obligations.OutputOfPairFollowsForceFlags : Prop :=
  ∀ on off : BitVec 13,
    (4096 ≤ on.toNat → off.toNat < 4096 → outputOf on off = .alwaysOn) ∧
    (on.toNat < 4096 → 4096 ≤ off.toNat → outputOf on off = .alwaysOff) ∧
    (4096 ≤ on.toNat → 4096 ≤ off.toNat → outputOf on off = .notGiven) ∧
    (on.toNat < 4096 → off.toNat < 4096 → on = off → outputOf on off = .notGiven) ∧
    (on.toNat < 4096 → off.toNat < 4096 → on ≠ off →
      outputOf on off = .window on.toNat (((off.toNat : Int) - on.toNat) % 4096).toNat)

/-! ### Encoding and sequencing -/

/-- R71 to R76: no bit of an encoding is dropped. -/
def Obligations.DecodeOfEncodeGivesCommandBack : Prop :=
  ∀ (hasCfg : Bool) (i : Instr) (rest : List Word), i.wf = true → i.present hasCfg = true →
    decode hasCfg (encode i ++ rest) = .command i rest

/-- R71 to R76: a decoded command is well-formed, belongs to the command set, and its words are its encoding. -/
def Obligations.DecodedWordsAreTheEncoding : Prop :=
  ∀ (hasCfg : Bool) (ws rest : List Word) (i : Instr), decode hasCfg ws = .command i rest →
    ws = encode i ++ rest ∧ i.wf = true ∧ i.present hasCfg = true

/-- R75: a header word selects the row whose match it equals under the row's mask, and no other. -/
def Obligations.OpcodeMapSelectsByMatchAndMask : Prop :=
  ∀ w : Word,
    (readHeader true w = .ok .sett ↔ w &&& 0xFF00 = 0x1000) ∧
    (readHeader true w = .ok .setd ↔ w &&& 0xFF00 = 0x2000) ∧
    (readHeader true w = .ok .seta ↔ w &&& 0xFF00 = 0x3000) ∧
    (readHeader true w = .ok .init ↔ w &&& 0xFFFF = 0x8000) ∧
    (readHeader true w = .ok .setf ↔ w &&& 0xFFFF = 0x9000) ∧
    (readHeader true w = .ok .setm ↔ w &&& 0xFFFE = 0xA000)

/-- R77, R163, R167: exactly the header words of R77 are illegal commands; each has length 1, issues no transaction
and raises IllegalCommand. That a step on one leaves latches, working registers and `BUF` as they were is the model's
(log 27). -/
def Obligations.IllegalHeadersAreThoseOfTheRule : Prop :=
  (∀ (hasCfg : Bool) (w : Word) (rest : List Word),
    (∃ why, decode hasCfg (w :: rest) = .illegal why rest) ↔ illegalHeader hasCfg w) ∧
  (∀ (s : State) (w : Word) (rest : List Word), s.stream.drop s.pc = w :: rest →
    illegalHeader s.straps.hasCfg w →
    step s = .next { s with responses := s.responses ++ [.illegalCommand], pc := s.pc + 1 }) ∧
  illegalHeader true 0x0000 ∧ illegalHeader true 0xFFFF

/-- R74: the header word alone decides the length, and every step moves past exactly that many words. -/
def Obligations.HeaderAloneDecidesLength : Prop :=
  (∀ (hasCfg : Bool) (w : Word), headerLength hasCfg w = lengthByRule hasCfg w) ∧
  (∀ s t : State, step s = .next t →
    ∃ w rest, s.stream.drop s.pc = w :: rest ∧ lengthByRule s.straps.hasCfg w ≤ rest.length + 1 ∧
      t.pc = s.pc + lengthByRule s.straps.hasCfg w)

/-- R25, R81: every command, however it ends, advances `pc` by its own length. -/
def Obligations.EveryCommandAdvancesPcByItsLength : Prop :=
  ∀ (i : Instr) (s t : State), exec i s = .next t → t.pc = s.pc + i.length ∧ (encode i).length = i.length

/-- R79, R176, and log 15 (a stuck state is a named fault): the machine is stuck exactly where the next command has not wholly arrived. -/
def Obligations.StuckExactlyWithoutAWholeCommand : Prop :=
  ∀ s : State,
    (step s = .fault .awaitingCommand ↔ s.stream.drop s.pc = []) ∧
    (step s = .fault .truncatedCommand ↔
      ∃ w rest, s.stream.drop s.pc = w :: rest ∧ rest.length + 1 < lengthByRule s.straps.hasCfg w)

/-- Words written out from the encodings of R71 to R75. -/
def Obligations.WrittenOutWordsDecode : Prop :=
  decode true [0x1002, 0x0064, 0x012C] = .command (.sett 2 100 300) [] ∧
  decode true [0x200F, 0x1000, 0xFFFF] = .command (.setd 15 4096) [0xFFFF] ∧
  decode true [0x3003, 0x03E8, 0x03E9, 0x03EA] = .command (.seta [1000, 1001, 1002]) [] ∧
  decode true [0x8000] = .command .init [] ∧
  decode true [0x9000, 0x0032] = .command (.setf 50) [] ∧
  decode true [0xA001] = .command (.setm true) [] ∧
  decode true [0xA000] = .command (.setm false) []

/-- R11, R54: a step runs the decoded command. -/
def Obligations.StepRunsTheDecodedCommand : Prop :=
  ∀ (s : State) (i : Instr) (rest : List Word), decode s.straps.hasCfg (s.stream.drop s.pc) = .command i rest →
    step s = exec i s

/-- R82: the assembler's words are the command's encoding, and an operand outside its field is an error. -/
def Obligations.AssemblerWordsAreTheEncoding : Prop :=
  (∀ (ch : Byte) (on off : Word),
    asmWords (.sett ch.toNat on.toNat off.toNat) = some (encode (.sett ch on off))) ∧
  (∀ (ch : Byte) (v : Word), asmWords (.setd ch.toNat v.toNat) = some (encode (.setd ch v))) ∧
  (∀ values : List Word, (Instr.seta values).wf = true →
    asmWords (.seta (values.map BitVec.toNat)) = some (encode (.seta values))) ∧
  asmWords .init = some (encode .init) ∧
  (∀ hz : Word, asmWords (.setf hz.toNat) = some (encode (.setf hz))) ∧
  (asmWords (.setm 0) = some (encode (.setm false)) ∧ asmWords (.setm 1) = some (encode (.setm true))) ∧
  (∀ x : Word, asmWords (.word x.toNat) = some [x]) ∧
  (∀ ch on off, 256 ≤ ch ∨ 65536 ≤ on ∨ 65536 ≤ off → asmWords (.sett ch on off) = none) ∧
  (∀ ch v, 256 ≤ ch ∨ 65536 ≤ v → asmWords (.setd ch v) = none) ∧
  (∀ values : List Nat, 256 ≤ values.length ∨ (∃ v ∈ values, 65536 ≤ v) → asmWords (.seta values) = none) ∧
  (∀ hz, 65536 ≤ hz → asmWords (.setf hz) = none) ∧
  (∀ t, 2 ≤ t → asmWords (.setm t) = none) ∧
  (∀ x, 65536 ≤ x → asmWords (.word x) = none)

/-! ### The transport port and the chip's registers -/

/-- R41: a bus write makes exactly the calls of the rule; away from PRESCALER it leaves the registers R50 to R52 say
(plain storage: log 10; unknown after a fault or an unreliable AUTO-INCREMENT: log 11, log 12; addresses not wrapped
at 0xFF, which no command reaches: log 22), and everything else of the machine as it was but for the free input taken
(the model's own fields: log 6, log 8). -/
def Obligations.BusWriteMakesCallsAndStores : Prop :=
  ∀ (addr : Byte) (bytes : List Byte) (s : State),
    ∃ t, memWrite addr bytes s = (nextStatus s, t) ∧
      madeCalls (writeCalls s.straps.deviceAddr addr bytes (nextStatus s)) s t ∧
      (addr ≠ 0xFE → ∀ a, Memory.read t.reg a =
        if addr.toNat ≤ a ∧ a < addr.toNat + bytes.length then
          if nextStatus s = .ok ∧ (bytes.length = 1 ∨ Memory.autoIncrement s.reg = true) then bytes[a - addr.toNat]?
          else none
        else Memory.read s.reg a) ∧
      tookStatuses 1 s t ∧ sameBytes s t ∧ sameFixed s t ∧ sameWorking s t ∧ t.buf = s.buf ∧
      t.responses = s.responses ∧ t.pc = s.pc

/-- R31, R196 with R50 and R52: a PRESCALER write is known to store its byte (log 10) where it succeeds and the chip
either does not need sleep for it or is known to be asleep (log 13); otherwise PRESCALER is unknown after it (log 12,
log 13). -/
def Obligations.PrescalerWriteNeedsSleepWhereTheChipDoes : Prop :=
  ∀ (b : Byte) (s : State),
    ∃ t, memWrite 0xFE [b] s = (nextStatus s, t) ∧
      (∀ a, Memory.read t.reg a =
        if a = 0xFE then
          if nextStatus s = .ok ∧ (s.straps.prescalerNeedsSleep = false ∨ Memory.asleep s.reg = true) then some b
          else none
        else Memory.read s.reg a)

/-- R42, R50, R167, R198: a bus read makes exactly the calls of R42. Where its address phase faults it gets no byte
and the register it addressed is unknown (log 29); else it gets the known byte of the register (plain storage: log 10)
or a free one (log 7) and changes no register; its read phase cannot fail (log 14). -/
def Obligations.BusReadMakesCallsAndLosesItsRegisterOnAFault : Prop :=
  ∀ (addr : Byte) (s : State),
    (nextStatus s = .fault → ∃ t, memRead addr s = (none, t) ∧
      (∀ a, Memory.read t.reg a = if a = addr.toNat then none else Memory.read s.reg a) ∧
      madeCalls (readFaultCalls s.straps.deviceAddr addr) s t ∧ tookStatuses 1 s t ∧ sameBytes s t) ∧
    (nextStatus s = .ok → ∃ b t, memRead addr s = (some b, t) ∧ t.reg = s.reg ∧
      madeCalls (readCalls s.straps.deviceAddr addr b) s t ∧ tookStatuses 1 s t ∧
      (∀ known, Memory.read s.reg addr.toNat = some known → b = known ∧ sameBytes s t) ∧
      (Memory.read s.reg addr.toNat = none → b = nextByte s ∧
        t.byteIn = s.byteIn.tail ∧ t.byteDraws = drawsAfter s.byteIn s.byteDraws))

/-! ### The single-channel commands -/

/-- R110, with R50 to R52: SETT, on a legal channel and on another. The model's choices in it: the registers are plain
storage (log 10), unknown after a fault or an unreliable AUTO-INCREMENT (log 11, log 12), the free input taken (log 6,
log 8), and latches, working registers and `BUF` unchanged by a rejected command (log 27). -/
def Obligations.SettWritesItsChannel : Prop :=
  (∀ (ch : Byte) (on off : Word) (s : State), ch.toNat ≤ 15 →
    ∃ t, exec (.sett ch on off) s = .next t ∧
      answered (responseFor (nextStatus s)) 3 s t ∧
      madeCalls (writeCalls s.straps.deviceAddr (chanBase ch.toNat) (pairBytes { on := on, off := off })
        (nextStatus s)) s t ∧
      bufHolds (pairBytes { on := on, off := off }) s t ∧
      regWritten (nextStatus s) (0x06 + 4 * ch.toNat) (pairBytes { on := on, off := off }) s t ∧
      tookStatuses 1 s t ∧ sameBytes s t ∧ sameFixed s t ∧ sameWorking s t) ∧
  (∀ (ch : Byte) (on off : Word) (s : State), 15 < ch.toNat →
    exec (.sett ch on off) s = .next { s with responses := s.responses ++ [.invalidArgument], pc := s.pc + 3 })

/-- R111, with R50 to R52: SETD, on a legal channel and on another. The model's choices in it: the registers are plain
storage (log 10), unknown after a fault or an unreliable AUTO-INCREMENT (log 11, log 12), the free input taken (log 6,
log 8), and latches, working registers and `BUF` unchanged by a rejected command (log 27). -/
def Obligations.SetdWritesItsChannel : Prop :=
  (∀ (ch : Byte) (v : Word) (s : State), ch.toNat ≤ 15 →
    ∃ t, exec (.setd ch v) s = .next t ∧
      answered (responseFor (nextStatus s)) 2 s t ∧
      madeCalls (writeCalls s.straps.deviceAddr (chanBase ch.toNat)
        (if v.toNat = 0 then [0x00, 0x00, 0x00, 0x10]
         else if 4095 ≤ v.toNat then [0x00, 0x10, 0x00, 0x00]
         else [0x00, 0x00, BitVec.ofNat 8 v.toNat, BitVec.ofNat 8 (v.toNat / 256)]) (nextStatus s)) s t ∧
      bufHolds (pairBytes (dutyPair v)) s t ∧
      regWritten (nextStatus s) (0x06 + 4 * ch.toNat) (pairBytes (dutyPair v)) s t ∧
      tookStatuses 1 s t ∧ sameBytes s t ∧ sameFixed s t ∧ sameWorking s t) ∧
  (∀ (ch : Byte) (v : Word) (s : State), 15 < ch.toNat →
    exec (.setd ch v) s = .next { s with responses := s.responses ++ [.invalidArgument], pc := s.pc + 2 })

/-- R112: SETD is SETT of its duty pair, but for the command's length. -/
def Obligations.SetdDelegatesToSett : Prop :=
  ∀ (ch : Byte) (v : Word) (s : State),
    ∃ t u, exec (.setd ch v) s = .next t ∧ exec (.sett ch (dutyPair v).on (dutyPair v).off) s = .next u ∧
      t = { u with pc := s.pc + 2 } ∧ u.pc = s.pc + 3

/-- R161, R167: a channel above 15 or a count above 16 raises InvalidArgument after the operand words and before any
transaction. That latches, working registers and `BUF` are unchanged too is the model's (log 27). -/
def Obligations.InvalidArgumentBeforeAnyTransaction : Prop :=
  (∀ (ch : Byte) (on off : Word) (s : State), 15 < ch.toNat →
    exec (.sett ch on off) s = .next { s with responses := s.responses ++ [.invalidArgument], pc := s.pc + 3 }) ∧
  (∀ (ch : Byte) (v : Word) (s : State), 15 < ch.toNat →
    exec (.setd ch v) s = .next { s with responses := s.responses ++ [.invalidArgument], pc := s.pc + 2 }) ∧
  (∀ (values : List Word) (s : State), 16 < values.length →
    exec (.seta values) s =
      .next { s with responses := s.responses ++ [.invalidArgument], pc := s.pc + (1 + values.length) })

/-- R34, R35, R50, R111: what the registers, as plain storage (log 10), say of the output after a successful SETD,
whatever SLEEP is (the model's choice, log 28). -/
def Obligations.SetdGivesTheRequestedOutput : Prop :=
  ∀ (ch : Byte) (v : Word) (s : State), ch.toNat ≤ 15 → nextStatus s = .ok → Memory.autoIncrement s.reg = true →
    ∃ t, exec (.setd ch v) s = .next t ∧
      channelOutput t.reg ch.toNat =
        (if v.toNat = 0 then .alwaysOff else if 4095 ≤ v.toNat then .alwaysOn else .window 0 v.toNat) ∧
      (∀ other, other ≤ 15 → other ≠ ch.toNat → channelOutput t.reg other = channelOutput s.reg other)

/-! ### The multi-channel allocator -/

/-- R121. -/
def Obligations.TallyCountsAndSumsDimmed : Prop :=
  ∀ values : List Word,
    countDimmed values = (dimmedOnly values).length ∧
    sumDimmed values = ((dimmedOnly values).map BitVec.toNat).sum ∧
    countDimmed values ≤ values.length ∧
    countDimmed values ≤ sumDimmed values ∧ sumDimmed values ≤ 4094 * countDimmed values ∧
    (values.length ≤ 16 → countDimmed values ≤ 16 ∧ sumDimmed values ≤ 65504)

/-- R122: floor division, its range, and the example that tells it from truncation. That the register keeps its value
where the division is skipped is the model's choice (log 18). -/
def Obligations.OverlapIsFloorDivision : Prop :=
  (∀ (n total : Nat), 0 < n →
    n * overlapOf n total ≤ (total : Int) - 4095 ∧ (total : Int) - 4095 < n * (overlapOf n total + 1)) ∧
  (∀ (n total : Nat), 0 < n → n ≤ 16 → n ≤ total → total ≤ 4094 * n →
    -4094 ≤ overlapOf n total ∧ overlapOf n total ≤ 3838) ∧
  overlapOf 2 30 = -2033 ∧ overlapOf 1 1 = -4094 ∧ overlapOf 16 65504 = 3838 ∧
  (∀ (values : List Word) (s t : State), values.length ≤ 16 → exec (.seta values) s = .next t →
    t.overlap = if countDimmed values = 0 then s.overlap else overlapOf (countDimmed values) (sumDimmed values))

/-- R123: the closed form of the walk, the advance past a dimmed channel, and that it is positive. -/
def Obligations.WalkFollowsClosedForm : Prop :=
  (∀ (overlap : Int) (values : List Word) (i : Nat) (v : Word), values[i]? = some v → classify v = .dimmed →
    ∃ p, (walk overlap 0 values).1[i]? = some p ∧
      (p.on.toNat : Int) = (startOf overlap (values.take i)) % 4096 ∧
      (p.off.toNat : Int) = (startOf overlap (values.take i) + v.toNat) % 4096 ∧
      (p.off.toNat : Int) = (p.on.toNat + v.toNat : Int) % 4096) ∧
  (∀ (overlap offset : Int) (values : List Word) (v : Word), classify v = .dimmed →
    (walk overlap offset (values ++ [v])).2 = (walk overlap offset values).2 + 4096 + v.toNat - overlap ∧
    (overlap ≤ 3838 → (walk overlap offset values).2 + 259 ≤ (walk overlap offset (values ++ [v])).2))

/-- R124: a saturated channel gets its sentinel pair, and taking the saturated channels out changes no dimmed
channel's pair and no working value. -/
def Obligations.SaturatedChannelsAreOutsideTheAllocation : Prop :=
  ∀ (overlap offset : Int) (values : List Word),
    (∀ (i : Nat) (v : Word), values[i]? = some v → classify v = .off → (walk overlap offset values).1[i]? = some pairOff) ∧
    (∀ (i : Nat) (v : Word), values[i]? = some v → classify v = .on → (walk overlap offset values).1[i]? = some pairOn) ∧
    ((values.zip (walk overlap offset values).1).filter fun x => classify x.1 = .dimmed) =
      (dimmedOnly values).zip (walk overlap offset (dimmedOnly values)).1 ∧
    (walk overlap offset values).2 = (walk overlap offset (dimmedOnly values)).2 ∧
    countDimmed values = countDimmed (dimmedOnly values) ∧ sumDimmed values = sumDimmed (dimmedOnly values)

/-- R126. -/
def Obligations.DimmedDurationIsExact : Prop :=
  ∀ (overlap offset : Int) (values : List Word) (i : Nat) (v : Word) (p : Pair),
    values[i]? = some v → classify v = .dimmed → (walk overlap offset values).1[i]? = some p →
    p.on.toNat ≤ 4095 ∧ p.off.toNat ≤ 4095 ∧
    ((p.off.toNat : Int) - p.on.toNat) % 4096 = v.toNat ∧ p.on ≠ p.off

/-- R127: the sum of the advances, and the bound on the unreduced `offset`. -/
def Obligations.AdvancesSpreadOverThePeriod : Prop :=
  ∀ values : List Word, 0 < countDimmed values → values.length ≤ 16 →
    (walk (overlapOf (countDimmed values) (sumDimmed values)) 0 values).2 =
      4096 * countDimmed values + 4095 +
        ((sumDimmed values : Int) - 4095) % (countDimmed values) ∧
    (∀ k, 0 ≤ (walk (overlapOf (countDimmed values) (sumDimmed values)) 0 (values.take k)).2 ∧
      (walk (overlapOf (countDimmed values) (sumDimmed values)) 0 (values.take k)).2 < 184260)

/-- R129: the first dimmed channel starts at tick 0 whatever the overlap, and so has the pair SETD gives it. -/
def Obligations.FirstDimmedChannelStartsAtZero : Prop :=
  ∀ (overlap : Int) (values : List Word) (i : Nat) (v : Word), values[i]? = some v → classify v = .dimmed →
    dimmedOnly (values.take i) = [] → (walk overlap 0 values).1[i]? = some (dutyPair v)

/-- R128: with no dimmed channel the division is skipped, every pair is a sentinel pair, and the block write is issued
as usual. What `overlap` and `offset` hold afterwards is the model's choice (log 18). -/
def Obligations.NoDimmedChannelGivesSentinelsOnly : Prop :=
  ∀ (values : List Word) (s : State), values.length ≤ 16 →
    (values.length = 0 → s.straps.setAllEmpty = .addressOnlyWrite) → dimmedOnly values = [] →
    ∃ t, exec (.seta values) s = .next t ∧ t.overlap = s.overlap ∧ t.offset = 0 ∧ t.dimmedCount = 0 ∧
      answered (responseFor (nextStatus s)) (1 + values.length) s t ∧
      madeCalls (writeCalls s.straps.deviceAddr 0x06
        (values.flatMap fun v => if v.toNat = 0 then [0x00, 0x00, 0x00, 0x10] else [0x00, 0x10, 0x00, 0x00])
        (nextStatus s)) s t

/-- R120, R125, R130, with R50 to R52: SETA on a legal count that issues its block write. The model's choices in it:
the registers are plain storage (log 10), unknown after a fault or an unreliable AUTO-INCREMENT (log 11, log 12), the
free input taken (log 6, log 8), and what `overlap` and `offset` hold afterwards (log 18). -/
def Obligations.SetaIssuesOneBlockWrite : Prop :=
  ∀ (values : List Word) (s : State), values.length ≤ 16 →
    (values.length = 0 → s.straps.setAllEmpty = .addressOnlyWrite) →
    ∃ t, exec (.seta values) s = .next t ∧
      answered (responseFor (nextStatus s)) (1 + values.length) s t ∧
      madeCalls (writeCalls s.straps.deviceAddr 0x06 (packPairs (setaPairs values)) (nextStatus s)) s t ∧
      (packPairs (setaPairs values)).length = 4 * values.length ∧
      regWritten (nextStatus s) 0x06 (packPairs (setaPairs values)) s t ∧
      (∀ k, (h : k < 16) → t.latches[k] = (values[k]?).getD s.latches[k]) ∧
      t.dimmedCount = countDimmed values ∧ t.totalDimmedTicks = sumDimmed values ∧
      t.overlap = (if countDimmed values = 0 then s.overlap
        else overlapOf (countDimmed values) (sumDimmed values)) ∧
      t.offset = (walk (overlapOf (countDimmed values) (sumDimmed values)) 0 values).2 ∧
      bufHolds (packPairs (setaPairs values)) s t ∧
      tookStatuses 1 s t ∧ sameBytes s t ∧ sameFixed s t

/-- R131, R120: the two meanings of a count of 0. What the working registers hold afterwards, `overlap` as before and
the others 0, is the model's choice (log 18). -/
def Obligations.SetaOfNoValuesFollowsItsParameter : Prop :=
  (∀ s : State, s.straps.setAllEmpty = .addressOnlyWrite →
    ∃ t, exec (.seta []) s = .next t ∧ answered (responseFor (nextStatus s)) 1 s t ∧
      madeCalls [.beginTransaction s.straps.deviceAddr, .writeByte 0x06, .endTransaction (nextStatus s)] s t ∧
      t.reg = s.reg ∧ tookStatuses 1 s t ∧ sameBytes s t ∧ sameFixed s t) ∧
  (∀ s : State, s.straps.setAllEmpty = .noTransaction →
    exec (.seta []) s = .next { s with
      responses := s.responses ++ [.ok], pc := s.pc + 1, dimmedCount := 0, totalDimmedTicks := 0, offset := 0 })

/-- R34, R50, R120 to R126: after a successful SETA every channel named has the output it was asked for, a dimmed one
its exact duration, and every other channel the output it had, as the registers, plain storage (log 10), say whatever
SLEEP is (the model's choice, log 28). -/
def Obligations.SetaGivesTheRequestedOutputs : Prop :=
  ∀ (values : List Word) (s : State), values.length ≤ 16 → 0 < values.length → nextStatus s = .ok →
    Memory.autoIncrement s.reg = true →
    ∃ t, exec (.seta values) s = .next t ∧
      (∀ (ch : Nat) (v : Word), values[ch]? = some v →
        (v.toNat = 0 → channelOutput t.reg ch = .alwaysOff) ∧
        (4095 ≤ v.toNat → channelOutput t.reg ch = .alwaysOn) ∧
        (1 ≤ v.toNat → v.toNat ≤ 4094 → ∃ start, start ≤ 4095 ∧ channelOutput t.reg ch = .window start v.toNat)) ∧
      (∀ ch, values.length ≤ ch → ch ≤ 15 → channelOutput t.reg ch = channelOutput s.reg ch)

/-! ### The CFG extension -/

/-- R102, R103, with R50 and R196: INIT with every transaction successful, with and without the bracket. That the
registers hold the bytes written is log 10; that PRESCALER is unknown without the bracket on a chip that needs sleep
is log 13. -/
def Obligations.InitSetsMode1AndDefaultFrequency : Prop :=
  ∀ s : State,
    (s.straps.prescaleSleepBracket = true → (∀ k, k < 5 → statusAt k s = .ok) →
      ∃ t, exec .init s = .next t ∧ answered .ok 1 s t ∧
        madeCalls (writeCalls s.straps.deviceAddr 0x00 [0xA0] .ok ++
          readCalls s.straps.deviceAddr 0x00 0xA0 ++
          writeCalls s.straps.deviceAddr 0x00 [0xB0] .ok ++
          writeCalls s.straps.deviceAddr 0xFE [prescale s.straps.defaultFreqHz] .ok ++
          writeCalls s.straps.deviceAddr 0x00 [0xA0] .ok) s t ∧
        (∀ a, Memory.read t.reg a =
          if a = 0x00 then some 0xA0 else if a = 0xFE then some (prescale s.straps.defaultFreqHz)
          else Memory.read s.reg a) ∧
        tookStatuses 5 s t ∧ sameBytes s t ∧ sameFixed s t ∧ sameWorking s t ∧ t.buf = s.buf) ∧
    (s.straps.prescaleSleepBracket = false → (∀ k, k < 2 → statusAt k s = .ok) →
      ∃ t, exec .init s = .next t ∧ answered .ok 1 s t ∧
        madeCalls (writeCalls s.straps.deviceAddr 0x00 [0xA0] .ok ++
          writeCalls s.straps.deviceAddr 0xFE [prescale s.straps.defaultFreqHz] .ok) s t ∧
        (∀ a, Memory.read t.reg a =
          if a = 0x00 then some 0xA0
          else if a = 0xFE then
            if s.straps.prescalerNeedsSleep then none else some (prescale s.straps.defaultFreqHz)
          else Memory.read s.reg a) ∧
        tookStatuses 2 s t ∧ sameBytes s t ∧ sameFixed s t ∧ sameWorking s t ∧ t.buf = s.buf)

/-- R103, R50: SETF with every transaction successful, with the bracket: MODE1 is read, written with SLEEP set,
PRESCALER is written, and MODE1 gets back the byte read, a free one where MODE1 was unknown (log 7). That MODE1 and
PRESCALER hold the bytes written is the plain storage of log 10. -/
def Obligations.SetfBracketsThePrescalerWrite : Prop :=
  ∀ (hz : Word) (s : State), s.straps.prescaleSleepBracket = true → (∀ k, k < 4 → statusAt k s = .ok) →
    ∃ t, exec (.setf hz) s = .next t ∧ answered .ok 2 s t ∧
      madeCalls (readCalls s.straps.deviceAddr 0x00 (byteAt 0x00 s) ++
        writeCalls s.straps.deviceAddr 0x00 [byteAt 0x00 s ||| 0x10] .ok ++
        writeCalls s.straps.deviceAddr 0xFE [prescale hz] .ok ++
        writeCalls s.straps.deviceAddr 0x00 [byteAt 0x00 s] .ok) s t ∧
      (∀ a, Memory.read t.reg a =
        if a = 0x00 then some (byteAt 0x00 s) else if a = 0xFE then some (prescale hz) else Memory.read s.reg a) ∧
      tookStatuses 4 s t ∧ t.byteIn = byteInAfterRead 0x00 s ∧ t.byteDraws = byteDrawsAfterRead 0x00 s ∧
      sameFixed s t ∧ sameWorking s t ∧ t.buf = s.buf

/-- R103, R196, with R50 and R52: SETF without the bracket. PRESCALER holds the byte on success (plain storage: log
10), and is unknown after a fault (log 12) and where the chip may not take the write (log 13). -/
def Obligations.SetfWithoutBracketWritesPrescalerOnly : Prop :=
  ∀ (hz : Word) (s : State), s.straps.prescaleSleepBracket = false →
    ∃ t, exec (.setf hz) s = .next t ∧ answered (responseFor (nextStatus s)) 2 s t ∧
      madeCalls (writeCalls s.straps.deviceAddr 0xFE [prescale hz] (nextStatus s)) s t ∧
      (∀ a, Memory.read t.reg a =
        if a = 0xFE then
          if nextStatus s = .ok ∧ (s.straps.prescalerNeedsSleep = false ∨ Memory.asleep s.reg = true) then
            some (prescale hz)
          else none
        else Memory.read s.reg a) ∧
      tookStatuses 1 s t ∧ sameBytes s t ∧ sameFixed s t ∧ sameWorking s t ∧ t.buf = s.buf

/-- R104, R50: SETM with both transactions successful: the drive bit is set or cleared and the seven other bits of
MODE2 are written back as read, from a free byte where MODE2 was unknown (log 7). That MODE2 holds the byte written is
the plain storage of log 10. -/
def Obligations.SetmChangesOneBitOfMode2 : Prop :=
  ∀ (totemPole : Bool) (s : State), (∀ k, k < 2 → statusAt k s = .ok) →
    ∃ t b, exec (.setm totemPole) s = .next t ∧ answered .ok 1 s t ∧
      b.getLsbD 2 = totemPole ∧ (∀ k, k ≠ 2 → b.getLsbD k = (byteAt 0x01 s).getLsbD k) ∧
      madeCalls (readCalls s.straps.deviceAddr 0x01 (byteAt 0x01 s) ++
        writeCalls s.straps.deviceAddr 0x01 [b] .ok) s t ∧
      (∀ a, Memory.read t.reg a = if a = 0x01 then some b else Memory.read s.reg a) ∧
      tookStatuses 2 s t ∧ t.byteIn = byteInAfterRead 0x01 s ∧ t.byteDraws = byteDrawsAfterRead 0x01 s ∧
      sameFixed s t ∧ sameWorking s t ∧ t.buf = s.buf

/-- R104, R162, R167, R52: SETM where its read faults or its write faults; MODE2 is unknown afterwards (log 29, log
12). -/
def Obligations.SetmStopsAtItsFirstFault : Prop :=
  ∀ (totemPole : Bool) (s : State),
    (statusAt 0 s = .fault → ∃ t, exec (.setm totemPole) s = .next t ∧ answered .transportFault 1 s t ∧
      madeCalls (readFaultCalls s.straps.deviceAddr 0x01) s t ∧
      (∀ a, Memory.read t.reg a = if a = 0x01 then none else Memory.read s.reg a) ∧ sameBytes s t) ∧
    (statusAt 0 s = .ok → statusAt 1 s = .fault →
      ∃ t, exec (.setm totemPole) s = .next t ∧ answered .transportFault 1 s t ∧
      (∀ a, Memory.read t.reg a = if a = 0x01 then none else Memory.read s.reg a))

/-- R102, R162, R52: INIT where its first write faults: MODE1 is unknown (log 12) and nothing further is issued. -/
def Obligations.InitStopsWhereItsFirstWriteFaults : Prop :=
  ∀ s : State, nextStatus s = .fault →
    ∃ t, exec .init s = .next t ∧ answered .transportFault 1 s t ∧
      madeCalls (writeCalls s.straps.deviceAddr 0x00 [0xA0] .fault) s t ∧
      (∀ a, Memory.read t.reg a = if a = 0x00 then none else Memory.read s.reg a) ∧
      tookStatuses 1 s t ∧ sameBytes s t ∧ sameFixed s t ∧ sameWorking s t ∧ t.buf = s.buf

/-- R103, R162, R167, with R50 and R52: bracketed SETF where the read of MODE1 faults, where the write that sets SLEEP
faults, and where the write that restores MODE1 faults: MODE1 is unknown afterwards (log 29, log 12), and PRESCALER
holds the byte written before the last of these (log 10). -/
def Obligations.SetfStopsAtItsFirstFault : Prop :=
  ∀ (hz : Word) (s : State), s.straps.prescaleSleepBracket = true →
    (statusAt 0 s = .fault →
      ∃ t, exec (.setf hz) s = .next t ∧ answered .transportFault 2 s t ∧
        madeCalls (readFaultCalls s.straps.deviceAddr 0x00) s t ∧
        (∀ a, Memory.read t.reg a = if a = 0x00 then none else Memory.read s.reg a) ∧ sameBytes s t) ∧
    (statusAt 0 s = .ok → statusAt 1 s = .fault →
      ∃ t, exec (.setf hz) s = .next t ∧ answered .transportFault 2 s t ∧
        madeCalls (readCalls s.straps.deviceAddr 0x00 (byteAt 0x00 s) ++
          writeCalls s.straps.deviceAddr 0x00 [byteAt 0x00 s ||| 0x10] .fault) s t ∧
        (∀ a, Memory.read t.reg a = if a = 0x00 then none else Memory.read s.reg a)) ∧
    ((∀ k, k < 3 → statusAt k s = .ok) → statusAt 3 s = .fault →
      ∃ t, exec (.setf hz) s = .next t ∧ answered .transportFault 2 s t ∧
        madeCalls (readCalls s.straps.deviceAddr 0x00 (byteAt 0x00 s) ++
          writeCalls s.straps.deviceAddr 0x00 [byteAt 0x00 s ||| 0x10] .ok ++
          writeCalls s.straps.deviceAddr 0xFE [prescale hz] .ok ++
          writeCalls s.straps.deviceAddr 0x00 [byteAt 0x00 s] .fault) s t ∧
        (∀ a, Memory.read t.reg a =
          if a = 0x00 then none else if a = 0xFE then some (prescale hz) else Memory.read s.reg a))

/-- R103, R198, with R50 and R52: a fault of the PRESCALER write leaves the chip asleep, MODE1 holding the byte read
with SLEEP set (plain storage: log 10), PRESCALER unknown (log 12), and nothing further is issued. -/
def Obligations.FaultInsideTheBracketLeavesTheChipAsleep : Prop :=
  ∀ (hz : Word) (s : State), s.straps.prescaleSleepBracket = true →
    statusAt 0 s = .ok → statusAt 1 s = .ok → statusAt 2 s = .fault →
    ∃ t, exec (.setf hz) s = .next t ∧ answered .transportFault 2 s t ∧ Memory.asleep t.reg = true ∧
      madeCalls (readCalls s.straps.deviceAddr 0x00 (byteAt 0x00 s) ++
        writeCalls s.straps.deviceAddr 0x00 [byteAt 0x00 s ||| 0x10] .ok ++
        writeCalls s.straps.deviceAddr 0xFE [prescale hz] .fault) s t ∧
      (∀ a, Memory.read t.reg a =
        if a = 0x00 then some (byteAt 0x00 s ||| 0x10) else if a = 0xFE then none else Memory.read s.reg a)

/-! ### Whole-machine rules -/

/-- R6, R38, R190, R191, R193: the machine after reset; that the host's reset keeps the record of calls is log 23. -/
def Obligations.ResetIsIdleWithUnknownRegisters : Prop :=
  State.reset.pc = 0 ∧ State.reset.responses = [] ∧ State.reset.inFlight = none ∧ State.reset.calls = [] ∧
  State.reset.straps.deviceAddr = 0x40 ∧ State.reset.straps.hasCfg = true ∧
  State.reset.straps.prescaleSleepBracket = true ∧ State.reset.straps.setAllEmpty = .addressOnlyWrite ∧
  (∀ a, Memory.read State.reset.reg a = none) ∧
  (∀ s : State, s.hostReset.reg = s.reg ∧ s.hostReset.straps = s.straps ∧ s.hostReset.pc = 0 ∧
    s.hostReset.responses = [] ∧ s.hostReset.calls = s.calls)

/-- R160: every step that completes emits exactly one response, with the code of the rule. -/
def Obligations.OneResponsePerCommand : Prop :=
  (∀ s t : State, step s = .next t → ∃ r, t.responses = s.responses ++ [r]) ∧
  (∀ (i : Instr) (s : State), ∃ t r, exec i s = .next t ∧ t.responses = s.responses ++ [r] ∧
    (r = .ok ∨ r = .invalidArgument ∨ r = .transportFault)) ∧
  [Response.ok, .invalidArgument, .transportFault, .illegalCommand].map Response.code = [0, 1, 2, 3]

/-- R162, R166: a command reports TransportFault exactly where one of its transactions faulted, and then that fault is
the last call it made; a command that reports InvalidArgument or IllegalCommand made none. -/
def Obligations.FaultingTransactionEndsItsCommand : Prop :=
  ∀ s t : State, step s = .next t →
    ∃ r cs, t.responses = s.responses ++ [r] ∧ t.calls = s.calls ++ cs ∧
      (r = .transportFault ↔ .endTransaction .fault ∈ cs) ∧
      .endTransaction .fault ∉ cs.dropLast ∧
      (r = .invalidArgument ∨ r = .illegalCommand → cs = [] ∧ t.reg = s.reg)

/-- R57, R21, R6, R80: no step changes the command stream, DEVICE_ADDR or the parameters. That the parameters and the
chip's revision are fields no step changes is the model's choice (log 2, log 13). -/
def Obligations.StreamAndStrapsNeverChange : Prop :=
  ∀ s t : State, step s = .next t → t.straps = s.straps ∧ t.stream = s.stream

/-- R49: base-set commands change registers 0x06 to 0x45 only and read nothing; CFG commands change 0x00, 0x01 and 0xFE
only. -/
def Obligations.CommandsTouchOnlyTheirRegisters : Prop :=
  ∀ (i : Instr) (s t : State), exec i s = .next t →
    (Base i → (∀ a, ¬ (0x06 ≤ a ∧ a ≤ 0x45) → Memory.read t.reg a = Memory.read s.reg a) ∧
      ∃ cs, t.calls = s.calls ++ cs ∧ ∀ d n, .requestRead d n ∉ cs) ∧
    (¬ Base i → ∀ a, a ≠ 0x00 → a ≠ 0x01 → a ≠ 0xFE → Memory.read t.reg a = Memory.read s.reg a)

/-- R20, R22, R24, R26, R113: what a command answers, what it puts on the bus and what it leaves in the chip's registers
depend on its words, the parameters, the chip and the transport's answers, and on nothing the CTE held before. -/
def Obligations.NoHiddenState : Prop :=
  ∀ (i : Instr) (s u t v : State), u.straps = s.straps → u.reg = s.reg →
    u.statusIn = s.statusIn → u.byteIn = s.byteIn → u.statusDraws = s.statusDraws → u.byteDraws = s.byteDraws →
    exec i s = .next t → exec i u = .next v →
    ∃ r cs, t.responses = s.responses ++ [r] ∧ v.responses = u.responses ++ [r] ∧
      t.calls = s.calls ++ cs ∧ v.calls = u.calls ++ cs ∧ v.reg = t.reg

/-- R113: the payload of a base-set command is a function of its own words: from any two states of one instance the
calls differ at most in the status the transport reports. -/
def Obligations.PayloadDependsOnTheWordsAlone : Prop :=
  ∀ (i : Instr) (s u t v : State), Base i → u.straps = s.straps → exec i s = .next t → exec i u = .next v →
    ∃ cs ds, t.calls = s.calls ++ cs ∧ v.calls = u.calls ++ ds ∧ ds.dropLast = cs.dropLast

/-- R47, R50, R113: a base-set command that succeeds twice leaves the registers, plain storage (log 10), as after the
first time. -/
def Obligations.BaseCommandsAreIdempotent : Prop :=
  ∀ (i : Instr) (s t u : State), Base i → Memory.autoIncrement s.reg = true → nextStatus s = .ok →
    nextStatus t = .ok → exec i s = .next t → exec i t = .next u →
    ∀ a, Memory.read u.reg a = Memory.read t.reg a

/-! ### Invariants that every step keeps -/

/-- Log 5: the register image stays in its canonical form. -/
def Obligations.StepKeepsMemoryCanonical : Prop :=
  ∀ s t : State, s.memoryCanonical → step s = .next t → t.memoryCanonical

/-- R27, R49: only documented registers are ever known. -/
def Obligations.StepKeepsOnlyDocumented : Prop :=
  ∀ s t : State, s.onlyDocumented → step s = .next t → t.onlyDocumented

/-- R32, R44: the upper three bits of every known ON_H and OFF_H stay 0. -/
def Obligations.StepKeepsHighBitsZero : Prop :=
  ∀ s t : State, s.highBitsZero → step s = .next t → t.highBitsZero

/-- R31, R101: a known PRESCALER stays in 3 to 253. -/
def Obligations.StepKeepsPrescalerInRange : Prop :=
  ∀ s t : State, s.prescalerInRange → step s = .next t → t.prescalerInRange

/-- R23: the working registers stay in their ranges. -/
def Obligations.StepKeepsWorkingRegistersInRange : Prop :=
  ∀ s t : State, s.workingInRange → step s = .next t → t.workingInRange

/-- R41, R42, R54: the calls made stay a sequence of whole transactions, and no transaction is in flight between
commands. -/
def Obligations.StepKeepsTransactionsWhole : Prop :=
  ∀ s t : State, s.callsWhole → s.idle → step s = .next t → t.callsWhole ∧ t.idle

/-- The invariants hold at reset; that of R23 rests on the model's reset values (log 4). -/
def Obligations.InvariantsHoldAtReset : Prop :=
  State.reset.memoryCanonical ∧ State.reset.onlyDocumented ∧ State.reset.highBitsZero ∧
    State.reset.prescalerInRange ∧ State.reset.workingInRange ∧ State.reset.callsWhole ∧ State.reset.idle
end

