-- ==== Sys2Proof/Laws/Memory.lean ====
section
/-! SUPPORT. What the register image's operations do: a read after each of them, the canonical form each of them
keeps, and which entries each of them can hold. -/

namespace Sys2Proof.Machine

theorem Memory.read_write (a : Nat) (b : Byte) (m : Memory) (x : Nat) :
    Memory.read (Memory.write a b m) x = if x = a then some b else Memory.read m x := by
  induction m with
  | nil => simp only [Memory.write, Memory.read, eq_comm]
  | cons c m ih =>
    simp only [Memory.write]
    split
    · simp only [Memory.read, eq_comm]
    · split
      · rename_i h; subst h; simp only [Memory.read]; split <;> simp_all [eq_comm]
      · simp only [Memory.read, ih]
        split
        · rename_i h h'; subst h'; simp [Ne.symm h]
        · rfl

theorem Memory.read_forget (a : Nat) (m : Memory) (x : Nat) :
    Memory.read (Memory.forget a m) x = if x = a then none else Memory.read m x := by
  induction m with
  | nil => simp [Memory.forget, Memory.read]
  | cons c m ih =>
    unfold Memory.forget at ih ⊢
    by_cases h : c.1 = a
    · subst h
      simp only [List.filter_cons, Memory.read]
      simp only [ne_eq, not_true, decide_false, Bool.false_eq_true, ite_false, ih]
      split <;> simp_all [eq_comm]
    · simp only [List.filter_cons, Memory.read, ne_eq, h, not_false_eq_true, decide_true, ite_true, ih]
      by_cases h' : c.1 = x
      · subst h'; simp [h]
      · simp [h']

theorem Memory.read_writeBlock (a : Nat) (bs : List Byte) (m : Memory) (x : Nat) :
    Memory.read (Memory.writeBlock a bs m) x
      = if a ≤ x ∧ x < a + bs.length then bs[x - a]? else Memory.read m x := by
  induction bs generalizing a m with
  | nil => simp only [Memory.writeBlock, List.length_nil]; split <;> first | omega | rfl
  | cons b bs ih =>
    simp only [Memory.writeBlock, ih, Memory.read_write, List.length_cons]
    rcases Nat.lt_trichotomy x a with h | h | h
    · simp [show ¬ a + 1 ≤ x by omega, show ¬ a ≤ x by omega, show x ≠ a by omega]
    · subst h; simp
    · obtain ⟨k, rfl⟩ := Nat.exists_eq_add_of_lt h
      have e : a + k + 1 - a = k + 1 := by omega
      have e' : a + k + 1 - (a + 1) = k := by omega
      rw [e, e', List.getElem?_cons_succ]
      by_cases hk : k < bs.length
      · rw [if_pos (by omega), if_pos (by omega)]
      · rw [if_neg (by omega), if_neg (by omega), if_neg (by omega)]

theorem Memory.read_forgetBlock (a n : Nat) (m : Memory) (x : Nat) :
    Memory.read (Memory.forgetBlock a n m) x = if a ≤ x ∧ x < a + n then none else Memory.read m x := by
  induction n generalizing a m with
  | zero => simp only [Memory.forgetBlock]; split <;> first | omega | rfl
  | succ n ih =>
    simp only [Memory.forgetBlock, ih, Memory.read_forget]
    split
    · rw [if_pos (by omega)]
    · split
      · rw [if_pos (by omega)]
      · rw [if_neg (by omega)]

theorem Memory.mem_write {a : Nat} {b : Byte} {m : Memory} {c : Host.Cell} (h : c ∈ Memory.write a b m) :
    c = (a, b) ∨ c ∈ m := by
  induction m with
  | nil => simpa [Memory.write] using h
  | cons d m ih =>
    simp only [Memory.write] at h
    split at h
    · simpa using h
    · split at h
      · rcases List.mem_cons.mp h with h | h <;> simp [h]
      · rcases List.mem_cons.mp h with h | h
        · simp [h]
        · rcases ih h with h | h <;> simp [h]

theorem Memory.mem_forget {a : Nat} {m : Memory} {c : Host.Cell} (h : c ∈ Memory.forget a m) :
    c ∈ m ∧ c.1 ≠ a := by
  simpa [Memory.forget] using h

theorem Memory.mem_writeBlock {a : Nat} {bs : List Byte} {m : Memory} {c : Host.Cell}
    (h : c ∈ Memory.writeBlock a bs m) : (∃ i, ∃ hi : i < bs.length, c = (a + i, bs[i])) ∨ c ∈ m := by
  induction bs generalizing a m with
  | nil => exact .inr h
  | cons b bs ih =>
    rcases ih h with ⟨i, hi, rfl⟩ | h
    · exact .inl ⟨i + 1, by simpa using hi, by simp; omega⟩
    · rcases Memory.mem_write h with rfl | h
      · exact .inl ⟨0, by simp, by simp⟩
      · exact .inr h

theorem Memory.mem_forgetBlock {a n : Nat} {m : Memory} {c : Host.Cell}
    (h : c ∈ Memory.forgetBlock a n m) : c ∈ m := by
  induction n generalizing a m with
  | zero => exact h
  | succ n ih => exact (Memory.mem_forget (ih h)).1

theorem Memory.wf_write (a : Nat) (b : Byte) (m : Memory) (h : Memory.wf m) :
    Memory.wf (Memory.write a b m) := by
  induction m with
  | nil => simp [Memory.write, Memory.wf]
  | cons c m ih =>
    have hc := List.pairwise_cons.mp h
    simp only [Memory.write]
    split
    · rename_i hlt
      refine List.pairwise_cons.mpr ⟨fun d hd => ?_, h⟩
      rcases List.mem_cons.mp hd with rfl | hd
      · exact hlt
      · exact Nat.lt_trans hlt (hc.1 d hd)
    · split
      · rename_i he; subst he; exact List.pairwise_cons.mpr ⟨hc.1, hc.2⟩
      · refine List.pairwise_cons.mpr ⟨fun d hd => ?_, ih hc.2⟩
        rcases Memory.mem_write hd with rfl | hd
        · simp only; omega
        · exact hc.1 d hd

theorem Memory.wf_forget (a : Nat) (m : Memory) (h : Memory.wf m) : Memory.wf (Memory.forget a m) :=
  List.Pairwise.filter _ h

theorem Memory.wf_writeBlock (a : Nat) (bs : List Byte) (m : Memory) (h : Memory.wf m) :
    Memory.wf (Memory.writeBlock a bs m) := by
  induction bs generalizing a m with
  | nil => exact h
  | cons b bs ih => exact ih _ _ (Memory.wf_write a b m h)

theorem Memory.wf_forgetBlock (a n : Nat) (m : Memory) (h : Memory.wf m) :
    Memory.wf (Memory.forgetBlock a n m) := by
  induction n generalizing a m with
  | zero => exact h
  | succ n ih => exact ih _ _ (Memory.wf_forget a m h)

/-- Everything a write transaction does to the register image: it stores its bytes, or makes their registers
unknown. -/
theorem chipWrite_cases (needsSleep : Bool) (status : TxnStatus) (addr : Nat) (data : List Byte) (m : Memory) :
    chipWrite needsSleep status addr data m = Memory.writeBlock addr data m ∨
    chipWrite needsSleep status addr data m = Memory.forgetBlock addr data.length m := by
  unfold chipWrite
  cases status
  · simp only
    split
    · exact .inr rfl
    · split
      · exact .inl rfl
      · exact .inr rfl
  · exact .inr rfl

theorem Memory.wf_chipWrite (needsSleep : Bool) (status : TxnStatus) (addr : Nat) (data : List Byte) (m : Memory)
    (h : Memory.wf m) : Memory.wf (chipWrite needsSleep status addr data m) := by
  rcases chipWrite_cases needsSleep status addr data m with e | e <;> rw [e]
  · exact Memory.wf_writeBlock _ _ _ h
  · exact Memory.wf_forgetBlock _ _ _ h

/-- A register outside the bytes of a write transaction reads as before it. -/
theorem Memory.read_chipWrite_outside (needsSleep : Bool) (status : TxnStatus) (addr : Nat) (data : List Byte)
    (m : Memory) (x : Nat) (h : ¬ (addr ≤ x ∧ x < addr + data.length)) :
    Memory.read (chipWrite needsSleep status addr data m) x = Memory.read m x := by
  rcases chipWrite_cases needsSleep status addr data m with e | e <;> rw [e]
  · rw [Memory.read_writeBlock, if_neg h]
  · rw [Memory.read_forgetBlock, if_neg h]

/-- Every entry after a write transaction is one of its bytes or was there before. -/
theorem Memory.mem_chipWrite {needsSleep : Bool} {status : TxnStatus} {addr : Nat} {data : List Byte} {m : Memory}
    {c : Host.Cell} (h : c ∈ chipWrite needsSleep status addr data m) :
    (∃ i, ∃ hi : i < data.length, c = (addr + i, data[i])) ∨ c ∈ m := by
  rcases chipWrite_cases needsSleep status addr data m with e | e <;> rw [e] at h
  · exact Memory.mem_writeBlock h
  · exact .inr (Memory.mem_forgetBlock h)

/-- The canonical form makes equal images equal data. -/
theorem Memory.ext_of_read {m n : Memory} (hm : Memory.wf m) (hn : Memory.wf n)
    (h : ∀ x, Memory.read m x = Memory.read n x) : m = n := by
  have above : ∀ {k : Memory} {a : Nat}, (∀ d ∈ k, a < d.1) → Memory.read k a = none := by
    intro k
    induction k with
    | nil => intros; rfl
    | cons d k ih =>
      intro a hd
      have := hd d (by simp)
      simp only [Memory.read, if_neg (show d.1 ≠ a by omega)]
      exact ih fun e he => hd e (by simp [he])
  induction m generalizing n with
  | nil =>
    cases n with
    | nil => rfl
    | cons d n => simpa [Memory.read] using h d.1
  | cons c m ih =>
    cases n with
    | nil => simpa [Memory.read] using h c.1
    | cons d n =>
      have hm' := List.pairwise_cons.mp hm
      have hn' := List.pairwise_cons.mp hn
      have hcd : c.1 = d.1 := by
        rcases Nat.lt_trichotomy c.1 d.1 with hlt | he | hgt
        · have h1 := h c.1
          simp only [Memory.read, if_true, if_neg (show d.1 ≠ c.1 by omega)] at h1
          rw [above fun e he => Nat.lt_trans hlt (hn'.1 e he)] at h1
          simp at h1
        · exact he
        · have h1 := h d.1
          simp only [Memory.read, if_true, if_neg (show c.1 ≠ d.1 by omega)] at h1
          rw [above fun e he => Nat.lt_trans hgt (hm'.1 e he)] at h1
          simp at h1
      have hb : c.2 = d.2 := by
        have h1 := h c.1
        simpa [Memory.read, hcd] using h1
      have hrest : m = n := by
        refine ih hm'.2 hn'.2 fun x => ?_
        by_cases hx : c.1 = x
        · subst hx
          rw [above hm'.1, hcd, above hn'.1]
        · have h1 := h x
          simpa [Memory.read, hx, ← hcd] using h1
      exact congrArg₂ List.cons (Prod.ext hcd hb) hrest

end Sys2Proof.Machine
end

