-- ==== Sys2Proof/Laws/State.lean ====
section
/-! SUPPORT. One lemma per field of `State` per named update of it. -/

namespace Sys2Proof.Machine

@[simp] theorem logCall_straps (c : Call) (s : State) : (logCall c s).straps = s.straps := rfl

@[simp] theorem logCall_pc (c : Call) (s : State) : (logCall c s).pc = s.pc := rfl

@[simp] theorem logCall_latches (c : Call) (s : State) : (logCall c s).latches = s.latches := rfl

@[simp] theorem logCall_dimmedCount (c : Call) (s : State) : (logCall c s).dimmedCount = s.dimmedCount := rfl

@[simp] theorem logCall_totalDimmedTicks (c : Call) (s : State) : (logCall c s).totalDimmedTicks = s.totalDimmedTicks := rfl

@[simp] theorem logCall_overlap (c : Call) (s : State) : (logCall c s).overlap = s.overlap := rfl

@[simp] theorem logCall_offset (c : Call) (s : State) : (logCall c s).offset = s.offset := rfl

@[simp] theorem logCall_buf (c : Call) (s : State) : (logCall c s).buf = s.buf := rfl

@[simp] theorem logCall_stream (c : Call) (s : State) : (logCall c s).stream = s.stream := rfl

@[simp] theorem logCall_responses (c : Call) (s : State) : (logCall c s).responses = s.responses := rfl

@[simp] theorem logCall_calls (c : Call) (s : State) : (logCall c s).calls = s.calls ++ [c] := rfl

@[simp] theorem logCall_inFlight (c : Call) (s : State) : (logCall c s).inFlight = s.inFlight := rfl

@[simp] theorem logCall_reg (c : Call) (s : State) : (logCall c s).reg = s.reg := rfl

@[simp] theorem logCall_pointer (c : Call) (s : State) : (logCall c s).pointer = s.pointer := rfl

@[simp] theorem logCall_statusIn (c : Call) (s : State) : (logCall c s).statusIn = s.statusIn := rfl

@[simp] theorem logCall_byteIn (c : Call) (s : State) : (logCall c s).byteIn = s.byteIn := rfl

@[simp] theorem logCall_statusDraws (c : Call) (s : State) : (logCall c s).statusDraws = s.statusDraws := rfl

@[simp] theorem logCall_byteDraws (c : Call) (s : State) : (logCall c s).byteDraws = s.byteDraws := rfl

@[simp] theorem loseRegister_straps (addr : Byte) (s : State) : (loseRegister addr s).straps = s.straps := rfl

@[simp] theorem loseRegister_pc (addr : Byte) (s : State) : (loseRegister addr s).pc = s.pc := rfl

@[simp] theorem loseRegister_latches (addr : Byte) (s : State) : (loseRegister addr s).latches = s.latches := rfl

@[simp] theorem loseRegister_dimmedCount (addr : Byte) (s : State) : (loseRegister addr s).dimmedCount = s.dimmedCount := rfl

@[simp] theorem loseRegister_totalDimmedTicks (addr : Byte) (s : State) : (loseRegister addr s).totalDimmedTicks = s.totalDimmedTicks := rfl

@[simp] theorem loseRegister_overlap (addr : Byte) (s : State) : (loseRegister addr s).overlap = s.overlap := rfl

@[simp] theorem loseRegister_offset (addr : Byte) (s : State) : (loseRegister addr s).offset = s.offset := rfl

@[simp] theorem loseRegister_buf (addr : Byte) (s : State) : (loseRegister addr s).buf = s.buf := rfl

@[simp] theorem loseRegister_stream (addr : Byte) (s : State) : (loseRegister addr s).stream = s.stream := rfl

@[simp] theorem loseRegister_responses (addr : Byte) (s : State) : (loseRegister addr s).responses = s.responses := rfl

@[simp] theorem loseRegister_calls (addr : Byte) (s : State) : (loseRegister addr s).calls = s.calls := rfl

@[simp] theorem loseRegister_inFlight (addr : Byte) (s : State) : (loseRegister addr s).inFlight = s.inFlight := rfl

@[simp] theorem loseRegister_reg (addr : Byte) (s : State) : (loseRegister addr s).reg = Memory.forget addr.toNat s.reg := rfl

@[simp] theorem loseRegister_pointer (addr : Byte) (s : State) : (loseRegister addr s).pointer = s.pointer := rfl

@[simp] theorem loseRegister_statusIn (addr : Byte) (s : State) : (loseRegister addr s).statusIn = s.statusIn := rfl

@[simp] theorem loseRegister_byteIn (addr : Byte) (s : State) : (loseRegister addr s).byteIn = s.byteIn := rfl

@[simp] theorem loseRegister_statusDraws (addr : Byte) (s : State) : (loseRegister addr s).statusDraws = s.statusDraws := rfl

@[simp] theorem loseRegister_byteDraws (addr : Byte) (s : State) : (loseRegister addr s).byteDraws = s.byteDraws := rfl

@[simp] theorem dropPointer_straps (s : State) : (dropPointer s).straps = s.straps := rfl

@[simp] theorem dropPointer_pc (s : State) : (dropPointer s).pc = s.pc := rfl

@[simp] theorem dropPointer_latches (s : State) : (dropPointer s).latches = s.latches := rfl

@[simp] theorem dropPointer_dimmedCount (s : State) : (dropPointer s).dimmedCount = s.dimmedCount := rfl

@[simp] theorem dropPointer_totalDimmedTicks (s : State) : (dropPointer s).totalDimmedTicks = s.totalDimmedTicks := rfl

@[simp] theorem dropPointer_overlap (s : State) : (dropPointer s).overlap = s.overlap := rfl

@[simp] theorem dropPointer_offset (s : State) : (dropPointer s).offset = s.offset := rfl

@[simp] theorem dropPointer_buf (s : State) : (dropPointer s).buf = s.buf := rfl

@[simp] theorem dropPointer_stream (s : State) : (dropPointer s).stream = s.stream := rfl

@[simp] theorem dropPointer_responses (s : State) : (dropPointer s).responses = s.responses := rfl

@[simp] theorem dropPointer_calls (s : State) : (dropPointer s).calls = s.calls := rfl

@[simp] theorem dropPointer_inFlight (s : State) : (dropPointer s).inFlight = s.inFlight := rfl

@[simp] theorem dropPointer_reg (s : State) : (dropPointer s).reg = s.reg := rfl

@[simp] theorem dropPointer_pointer (s : State) : (dropPointer s).pointer = none := rfl

@[simp] theorem dropPointer_statusIn (s : State) : (dropPointer s).statusIn = s.statusIn := rfl

@[simp] theorem dropPointer_byteIn (s : State) : (dropPointer s).byteIn = s.byteIn := rfl

@[simp] theorem dropPointer_statusDraws (s : State) : (dropPointer s).statusDraws = s.statusDraws := rfl

@[simp] theorem dropPointer_byteDraws (s : State) : (dropPointer s).byteDraws = s.byteDraws := rfl

@[simp] theorem fillBuf_straps (bytes : List Byte) (s : State) : (fillBuf bytes s).straps = s.straps := rfl

@[simp] theorem fillBuf_pc (bytes : List Byte) (s : State) : (fillBuf bytes s).pc = s.pc := rfl

@[simp] theorem fillBuf_latches (bytes : List Byte) (s : State) : (fillBuf bytes s).latches = s.latches := rfl

@[simp] theorem fillBuf_dimmedCount (bytes : List Byte) (s : State) : (fillBuf bytes s).dimmedCount = s.dimmedCount := rfl

@[simp] theorem fillBuf_totalDimmedTicks (bytes : List Byte) (s : State) : (fillBuf bytes s).totalDimmedTicks = s.totalDimmedTicks := rfl

@[simp] theorem fillBuf_overlap (bytes : List Byte) (s : State) : (fillBuf bytes s).overlap = s.overlap := rfl

@[simp] theorem fillBuf_offset (bytes : List Byte) (s : State) : (fillBuf bytes s).offset = s.offset := rfl

@[simp] theorem fillBuf_buf (bytes : List Byte) (s : State) : (fillBuf bytes s).buf = loadBuf 0 bytes s.buf := rfl

@[simp] theorem fillBuf_stream (bytes : List Byte) (s : State) : (fillBuf bytes s).stream = s.stream := rfl

@[simp] theorem fillBuf_responses (bytes : List Byte) (s : State) : (fillBuf bytes s).responses = s.responses := rfl

@[simp] theorem fillBuf_calls (bytes : List Byte) (s : State) : (fillBuf bytes s).calls = s.calls := rfl

@[simp] theorem fillBuf_inFlight (bytes : List Byte) (s : State) : (fillBuf bytes s).inFlight = s.inFlight := rfl

@[simp] theorem fillBuf_reg (bytes : List Byte) (s : State) : (fillBuf bytes s).reg = s.reg := rfl

@[simp] theorem fillBuf_pointer (bytes : List Byte) (s : State) : (fillBuf bytes s).pointer = s.pointer := rfl

@[simp] theorem fillBuf_statusIn (bytes : List Byte) (s : State) : (fillBuf bytes s).statusIn = s.statusIn := rfl

@[simp] theorem fillBuf_byteIn (bytes : List Byte) (s : State) : (fillBuf bytes s).byteIn = s.byteIn := rfl

@[simp] theorem fillBuf_statusDraws (bytes : List Byte) (s : State) : (fillBuf bytes s).statusDraws = s.statusDraws := rfl

@[simp] theorem fillBuf_byteDraws (bytes : List Byte) (s : State) : (fillBuf bytes s).byteDraws = s.byteDraws := rfl

@[simp] theorem finish_straps (r : Response) (length : Nat) (s : State) : (finish r length s).straps = s.straps := rfl

@[simp] theorem finish_pc (r : Response) (length : Nat) (s : State) : (finish r length s).pc = s.pc + length := rfl

@[simp] theorem finish_latches (r : Response) (length : Nat) (s : State) : (finish r length s).latches = s.latches := rfl

@[simp] theorem finish_dimmedCount (r : Response) (length : Nat) (s : State) : (finish r length s).dimmedCount = s.dimmedCount := rfl

@[simp] theorem finish_totalDimmedTicks (r : Response) (length : Nat) (s : State) : (finish r length s).totalDimmedTicks = s.totalDimmedTicks := rfl

@[simp] theorem finish_overlap (r : Response) (length : Nat) (s : State) : (finish r length s).overlap = s.overlap := rfl

@[simp] theorem finish_offset (r : Response) (length : Nat) (s : State) : (finish r length s).offset = s.offset := rfl

@[simp] theorem finish_buf (r : Response) (length : Nat) (s : State) : (finish r length s).buf = s.buf := rfl

@[simp] theorem finish_stream (r : Response) (length : Nat) (s : State) : (finish r length s).stream = s.stream := rfl

@[simp] theorem finish_responses (r : Response) (length : Nat) (s : State) : (finish r length s).responses = s.responses ++ [r] := rfl

@[simp] theorem finish_calls (r : Response) (length : Nat) (s : State) : (finish r length s).calls = s.calls := rfl

@[simp] theorem finish_inFlight (r : Response) (length : Nat) (s : State) : (finish r length s).inFlight = s.inFlight := rfl

@[simp] theorem finish_reg (r : Response) (length : Nat) (s : State) : (finish r length s).reg = s.reg := rfl

@[simp] theorem finish_pointer (r : Response) (length : Nat) (s : State) : (finish r length s).pointer = s.pointer := rfl

@[simp] theorem finish_statusIn (r : Response) (length : Nat) (s : State) : (finish r length s).statusIn = s.statusIn := rfl

@[simp] theorem finish_byteIn (r : Response) (length : Nat) (s : State) : (finish r length s).byteIn = s.byteIn := rfl

@[simp] theorem finish_statusDraws (r : Response) (length : Nat) (s : State) : (finish r length s).statusDraws = s.statusDraws := rfl

@[simp] theorem finish_byteDraws (r : Response) (length : Nat) (s : State) : (finish r length s).byteDraws = s.byteDraws := rfl

@[simp] theorem respondOk_straps (length : Nat) (s : State) : (respondOk length s).straps = s.straps := rfl

@[simp] theorem respondOk_pc (length : Nat) (s : State) : (respondOk length s).pc = s.pc + length := rfl

@[simp] theorem respondOk_latches (length : Nat) (s : State) : (respondOk length s).latches = s.latches := rfl

@[simp] theorem respondOk_dimmedCount (length : Nat) (s : State) : (respondOk length s).dimmedCount = s.dimmedCount := rfl

@[simp] theorem respondOk_totalDimmedTicks (length : Nat) (s : State) : (respondOk length s).totalDimmedTicks = s.totalDimmedTicks := rfl

@[simp] theorem respondOk_overlap (length : Nat) (s : State) : (respondOk length s).overlap = s.overlap := rfl

@[simp] theorem respondOk_offset (length : Nat) (s : State) : (respondOk length s).offset = s.offset := rfl

@[simp] theorem respondOk_buf (length : Nat) (s : State) : (respondOk length s).buf = s.buf := rfl

@[simp] theorem respondOk_stream (length : Nat) (s : State) : (respondOk length s).stream = s.stream := rfl

@[simp] theorem respondOk_responses (length : Nat) (s : State) : (respondOk length s).responses = s.responses ++ [.ok] := rfl

@[simp] theorem respondOk_calls (length : Nat) (s : State) : (respondOk length s).calls = s.calls := rfl

@[simp] theorem respondOk_inFlight (length : Nat) (s : State) : (respondOk length s).inFlight = s.inFlight := rfl

@[simp] theorem respondOk_reg (length : Nat) (s : State) : (respondOk length s).reg = s.reg := rfl

@[simp] theorem respondOk_pointer (length : Nat) (s : State) : (respondOk length s).pointer = s.pointer := rfl

@[simp] theorem respondOk_statusIn (length : Nat) (s : State) : (respondOk length s).statusIn = s.statusIn := rfl

@[simp] theorem respondOk_byteIn (length : Nat) (s : State) : (respondOk length s).byteIn = s.byteIn := rfl

@[simp] theorem respondOk_statusDraws (length : Nat) (s : State) : (respondOk length s).statusDraws = s.statusDraws := rfl

@[simp] theorem respondOk_byteDraws (length : Nat) (s : State) : (respondOk length s).byteDraws = s.byteDraws := rfl

@[simp] theorem raiseException_straps (code : Response) (length : Nat) (s : State) : (raiseException code length s).straps = s.straps := rfl

@[simp] theorem raiseException_pc (code : Response) (length : Nat) (s : State) : (raiseException code length s).pc = s.pc + length := rfl

@[simp] theorem raiseException_latches (code : Response) (length : Nat) (s : State) : (raiseException code length s).latches = s.latches := rfl

@[simp] theorem raiseException_dimmedCount (code : Response) (length : Nat) (s : State) : (raiseException code length s).dimmedCount = s.dimmedCount := rfl

@[simp] theorem raiseException_totalDimmedTicks (code : Response) (length : Nat) (s : State) : (raiseException code length s).totalDimmedTicks = s.totalDimmedTicks := rfl

@[simp] theorem raiseException_overlap (code : Response) (length : Nat) (s : State) : (raiseException code length s).overlap = s.overlap := rfl

@[simp] theorem raiseException_offset (code : Response) (length : Nat) (s : State) : (raiseException code length s).offset = s.offset := rfl

@[simp] theorem raiseException_buf (code : Response) (length : Nat) (s : State) : (raiseException code length s).buf = s.buf := rfl

@[simp] theorem raiseException_stream (code : Response) (length : Nat) (s : State) : (raiseException code length s).stream = s.stream := rfl

@[simp] theorem raiseException_responses (code : Response) (length : Nat) (s : State) : (raiseException code length s).responses = s.responses ++ [code] := rfl

@[simp] theorem raiseException_calls (code : Response) (length : Nat) (s : State) : (raiseException code length s).calls = s.calls := rfl

@[simp] theorem raiseException_inFlight (code : Response) (length : Nat) (s : State) : (raiseException code length s).inFlight = s.inFlight := rfl

@[simp] theorem raiseException_reg (code : Response) (length : Nat) (s : State) : (raiseException code length s).reg = s.reg := rfl

@[simp] theorem raiseException_pointer (code : Response) (length : Nat) (s : State) : (raiseException code length s).pointer = s.pointer := rfl

@[simp] theorem raiseException_statusIn (code : Response) (length : Nat) (s : State) : (raiseException code length s).statusIn = s.statusIn := rfl

@[simp] theorem raiseException_byteIn (code : Response) (length : Nat) (s : State) : (raiseException code length s).byteIn = s.byteIn := rfl

@[simp] theorem raiseException_statusDraws (code : Response) (length : Nat) (s : State) : (raiseException code length s).statusDraws = s.statusDraws := rfl

@[simp] theorem raiseException_byteDraws (code : Response) (length : Nat) (s : State) : (raiseException code length s).byteDraws = s.byteDraws := rfl

@[simp] theorem illegalCommand_straps (s : State) : (illegalCommand s).straps = s.straps := rfl

@[simp] theorem illegalCommand_pc (s : State) : (illegalCommand s).pc = s.pc + 1 := rfl

@[simp] theorem illegalCommand_latches (s : State) : (illegalCommand s).latches = s.latches := rfl

@[simp] theorem illegalCommand_dimmedCount (s : State) : (illegalCommand s).dimmedCount = s.dimmedCount := rfl

@[simp] theorem illegalCommand_totalDimmedTicks (s : State) : (illegalCommand s).totalDimmedTicks = s.totalDimmedTicks := rfl

@[simp] theorem illegalCommand_overlap (s : State) : (illegalCommand s).overlap = s.overlap := rfl

@[simp] theorem illegalCommand_offset (s : State) : (illegalCommand s).offset = s.offset := rfl

@[simp] theorem illegalCommand_buf (s : State) : (illegalCommand s).buf = s.buf := rfl

@[simp] theorem illegalCommand_stream (s : State) : (illegalCommand s).stream = s.stream := rfl

@[simp] theorem illegalCommand_responses (s : State) : (illegalCommand s).responses = s.responses ++ [.illegalCommand] := rfl

@[simp] theorem illegalCommand_calls (s : State) : (illegalCommand s).calls = s.calls := rfl

@[simp] theorem illegalCommand_inFlight (s : State) : (illegalCommand s).inFlight = s.inFlight := rfl

@[simp] theorem illegalCommand_reg (s : State) : (illegalCommand s).reg = s.reg := rfl

@[simp] theorem illegalCommand_pointer (s : State) : (illegalCommand s).pointer = s.pointer := rfl

@[simp] theorem illegalCommand_statusIn (s : State) : (illegalCommand s).statusIn = s.statusIn := rfl

@[simp] theorem illegalCommand_byteIn (s : State) : (illegalCommand s).byteIn = s.byteIn := rfl

@[simp] theorem illegalCommand_statusDraws (s : State) : (illegalCommand s).statusDraws = s.statusDraws := rfl

@[simp] theorem illegalCommand_byteDraws (s : State) : (illegalCommand s).byteDraws = s.byteDraws := rfl

@[simp] theorem takeStatus_statusIn (s : State) : (takeStatus s).statusIn = s.statusIn.tail := rfl

@[simp] theorem takeStatus_statusDraws (s : State) :
    (takeStatus s).statusDraws = drawsAfter s.statusIn s.statusDraws := rfl

@[simp] theorem takeStatus_byteDraws (s : State) : (takeStatus s).byteDraws = s.byteDraws := rfl

@[simp] theorem takeStatus_straps (s : State) : (takeStatus s).straps = s.straps := rfl

@[simp] theorem takeStatus_pc (s : State) : (takeStatus s).pc = s.pc := rfl

@[simp] theorem takeStatus_latches (s : State) : (takeStatus s).latches = s.latches := rfl

@[simp] theorem takeStatus_dimmedCount (s : State) : (takeStatus s).dimmedCount = s.dimmedCount := rfl

@[simp] theorem takeStatus_totalDimmedTicks (s : State) : (takeStatus s).totalDimmedTicks = s.totalDimmedTicks := rfl

@[simp] theorem takeStatus_overlap (s : State) : (takeStatus s).overlap = s.overlap := rfl

@[simp] theorem takeStatus_offset (s : State) : (takeStatus s).offset = s.offset := rfl

@[simp] theorem takeStatus_buf (s : State) : (takeStatus s).buf = s.buf := rfl

@[simp] theorem takeStatus_stream (s : State) : (takeStatus s).stream = s.stream := rfl

@[simp] theorem takeStatus_responses (s : State) : (takeStatus s).responses = s.responses := rfl

@[simp] theorem takeStatus_calls (s : State) : (takeStatus s).calls = s.calls := rfl

@[simp] theorem takeStatus_inFlight (s : State) : (takeStatus s).inFlight = s.inFlight := rfl

@[simp] theorem takeStatus_reg (s : State) : (takeStatus s).reg = s.reg := rfl

@[simp] theorem takeStatus_pointer (s : State) : (takeStatus s).pointer = s.pointer := rfl

@[simp] theorem takeStatus_byteIn (s : State) : (takeStatus s).byteIn = s.byteIn := rfl

@[simp] theorem takeByte_byteIn (s : State) : (takeByte s).byteIn = s.byteIn.tail := rfl

@[simp] theorem takeByte_byteDraws (s : State) :
    (takeByte s).byteDraws = drawsAfter s.byteIn s.byteDraws := rfl

@[simp] theorem takeByte_statusDraws (s : State) : (takeByte s).statusDraws = s.statusDraws := rfl

@[simp] theorem takeByte_straps (s : State) : (takeByte s).straps = s.straps := rfl

@[simp] theorem takeByte_pc (s : State) : (takeByte s).pc = s.pc := rfl

@[simp] theorem takeByte_latches (s : State) : (takeByte s).latches = s.latches := rfl

@[simp] theorem takeByte_dimmedCount (s : State) : (takeByte s).dimmedCount = s.dimmedCount := rfl

@[simp] theorem takeByte_totalDimmedTicks (s : State) : (takeByte s).totalDimmedTicks = s.totalDimmedTicks := rfl

@[simp] theorem takeByte_overlap (s : State) : (takeByte s).overlap = s.overlap := rfl

@[simp] theorem takeByte_offset (s : State) : (takeByte s).offset = s.offset := rfl

@[simp] theorem takeByte_buf (s : State) : (takeByte s).buf = s.buf := rfl

@[simp] theorem takeByte_stream (s : State) : (takeByte s).stream = s.stream := rfl

@[simp] theorem takeByte_responses (s : State) : (takeByte s).responses = s.responses := rfl

@[simp] theorem takeByte_calls (s : State) : (takeByte s).calls = s.calls := rfl

@[simp] theorem takeByte_inFlight (s : State) : (takeByte s).inFlight = s.inFlight := rfl

@[simp] theorem takeByte_reg (s : State) : (takeByte s).reg = s.reg := rfl

@[simp] theorem takeByte_pointer (s : State) : (takeByte s).pointer = s.pointer := rfl

@[simp] theorem takeByte_statusIn (s : State) : (takeByte s).statusIn = s.statusIn := rfl

@[simp] theorem State.feed_straps (ws : List Word) (s : State) : (s.feed ws).straps = s.straps := rfl

@[simp] theorem State.feed_pc (ws : List Word) (s : State) : (s.feed ws).pc = s.pc := rfl

@[simp] theorem State.feed_latches (ws : List Word) (s : State) : (s.feed ws).latches = s.latches := rfl

@[simp] theorem State.feed_dimmedCount (ws : List Word) (s : State) : (s.feed ws).dimmedCount = s.dimmedCount := rfl

@[simp] theorem State.feed_totalDimmedTicks (ws : List Word) (s : State) : (s.feed ws).totalDimmedTicks = s.totalDimmedTicks := rfl

@[simp] theorem State.feed_overlap (ws : List Word) (s : State) : (s.feed ws).overlap = s.overlap := rfl

@[simp] theorem State.feed_offset (ws : List Word) (s : State) : (s.feed ws).offset = s.offset := rfl

@[simp] theorem State.feed_buf (ws : List Word) (s : State) : (s.feed ws).buf = s.buf := rfl

@[simp] theorem State.feed_stream (ws : List Word) (s : State) : (s.feed ws).stream = s.stream ++ ws := rfl

@[simp] theorem State.feed_responses (ws : List Word) (s : State) : (s.feed ws).responses = s.responses := rfl

@[simp] theorem State.feed_calls (ws : List Word) (s : State) : (s.feed ws).calls = s.calls := rfl

@[simp] theorem State.feed_inFlight (ws : List Word) (s : State) : (s.feed ws).inFlight = s.inFlight := rfl

@[simp] theorem State.feed_reg (ws : List Word) (s : State) : (s.feed ws).reg = s.reg := rfl

@[simp] theorem State.feed_pointer (ws : List Word) (s : State) : (s.feed ws).pointer = s.pointer := rfl

@[simp] theorem State.feed_statusIn (ws : List Word) (s : State) : (s.feed ws).statusIn = s.statusIn := rfl

@[simp] theorem State.feed_byteIn (ws : List Word) (s : State) : (s.feed ws).byteIn = s.byteIn := rfl

@[simp] theorem State.feed_statusDraws (ws : List Word) (s : State) : (s.feed ws).statusDraws = s.statusDraws := rfl

@[simp] theorem State.feed_byteDraws (ws : List Word) (s : State) : (s.feed ws).byteDraws = s.byteDraws := rfl

@[simp] theorem tally_straps (values : List Word) (s : State) : (tally values s).straps = s.straps := rfl

@[simp] theorem tally_pc (values : List Word) (s : State) : (tally values s).pc = s.pc := rfl

@[simp] theorem tally_latches (values : List Word) (s : State) : (tally values s).latches = loadLatches 0 values s.latches := rfl

@[simp] theorem tally_overlap (values : List Word) (s : State) : (tally values s).overlap = s.overlap := rfl

@[simp] theorem tally_offset (values : List Word) (s : State) : (tally values s).offset = s.offset := rfl

@[simp] theorem tally_buf (values : List Word) (s : State) : (tally values s).buf = s.buf := rfl

@[simp] theorem tally_stream (values : List Word) (s : State) : (tally values s).stream = s.stream := rfl

@[simp] theorem tally_responses (values : List Word) (s : State) : (tally values s).responses = s.responses := rfl

@[simp] theorem tally_calls (values : List Word) (s : State) : (tally values s).calls = s.calls := rfl

@[simp] theorem tally_inFlight (values : List Word) (s : State) : (tally values s).inFlight = s.inFlight := rfl

@[simp] theorem tally_reg (values : List Word) (s : State) : (tally values s).reg = s.reg := rfl

@[simp] theorem tally_pointer (values : List Word) (s : State) : (tally values s).pointer = s.pointer := rfl

@[simp] theorem tally_statusIn (values : List Word) (s : State) : (tally values s).statusIn = s.statusIn := rfl

@[simp] theorem tally_byteIn (values : List Word) (s : State) : (tally values s).byteIn = s.byteIn := rfl

@[simp] theorem tally_statusDraws (values : List Word) (s : State) : (tally values s).statusDraws = s.statusDraws := rfl

@[simp] theorem tally_byteDraws (values : List Word) (s : State) : (tally values s).byteDraws = s.byteDraws := rfl

@[simp] theorem State.chipReset_straps (s : State) : s.chipReset.straps = s.straps := rfl

@[simp] theorem State.chipReset_pc (s : State) : s.chipReset.pc = s.pc := rfl

@[simp] theorem State.chipReset_latches (s : State) : s.chipReset.latches = s.latches := rfl

@[simp] theorem State.chipReset_dimmedCount (s : State) : s.chipReset.dimmedCount = s.dimmedCount := rfl

@[simp] theorem State.chipReset_totalDimmedTicks (s : State) : s.chipReset.totalDimmedTicks = s.totalDimmedTicks := rfl

@[simp] theorem State.chipReset_overlap (s : State) : s.chipReset.overlap = s.overlap := rfl

@[simp] theorem State.chipReset_offset (s : State) : s.chipReset.offset = s.offset := rfl

@[simp] theorem State.chipReset_buf (s : State) : s.chipReset.buf = s.buf := rfl

@[simp] theorem State.chipReset_stream (s : State) : s.chipReset.stream = s.stream := rfl

@[simp] theorem State.chipReset_responses (s : State) : s.chipReset.responses = s.responses := rfl

@[simp] theorem State.chipReset_calls (s : State) : s.chipReset.calls = s.calls := rfl

@[simp] theorem State.chipReset_inFlight (s : State) : s.chipReset.inFlight = s.inFlight := rfl

@[simp] theorem State.chipReset_reg (s : State) : s.chipReset.reg = [] := rfl

@[simp] theorem State.chipReset_pointer (s : State) : s.chipReset.pointer = none := rfl

@[simp] theorem State.chipReset_statusIn (s : State) : s.chipReset.statusIn = s.statusIn := rfl

@[simp] theorem State.chipReset_byteIn (s : State) : s.chipReset.byteIn = s.byteIn := rfl

@[simp] theorem State.chipReset_statusDraws (s : State) : s.chipReset.statusDraws = s.statusDraws := rfl

@[simp] theorem State.chipReset_byteDraws (s : State) : s.chipReset.byteDraws = s.byteDraws := rfl

end Sys2Proof.Machine
end

