-- ==== Sys2Proof/Laws/Transport.lean ====
section
/-! SUPPORT. Everything a bus write and a bus read can do, once. -/

namespace Sys2Proof.Machine

/-- Writing the data bytes of a transaction that is in flight: the bytes are sent and their calls recorded, and only
the register pointer changes besides. -/
theorem writeBytes_eq (bytes : List Byte) (s : State) (f : Flight) (hf : s.inFlight = some f) :
    ∃ p, bytes.foldl (fun t b => writeByte b t) s =
      { s with
        inFlight := some { f with sent := f.sent ++ bytes }
        pointer := p
        calls := s.calls ++ bytes.map .writeByte } := by
  induction bytes generalizing s f with
  | nil => exact ⟨s.pointer, by cases s; simp_all⟩
  | cons b bs ih =>
    obtain ⟨p, hp⟩ := ih (writeByte b s) { f with sent := f.sent ++ [b] } (by simp [writeByte, hf])
    refine ⟨p, ?_⟩
    rw [List.foldl_cons, hp]
    simp [writeByte, logCall]

/-- A transaction that carries no data byte changes no register. -/
@[simp] theorem chipWrite_nil (needsSleep : Bool) (status : TxnStatus) (addr : Nat) (m : Memory) :
    chipWrite needsSleep status addr [] m = m := by
  rcases chipWrite_cases needsSleep status addr [] m with e | e <;> rw [e] <;> rfl

/-- The status and the state a bus write leaves (R41, R50 to R52). -/
theorem memWrite_eq (addr : Byte) (bytes : List Byte) (s : State) :
    memWrite addr bytes s =
      (nextStatus s,
        { s with
          reg := chipWrite s.straps.prescalerNeedsSleep (nextStatus s) addr.toNat bytes s.reg
          inFlight := none
          pointer := none
          calls := s.calls ++ writeCalls s.straps.deviceAddr addr bytes (nextStatus s)
          statusIn := s.statusIn.tail
          statusDraws := drawsAfter s.statusIn s.statusDraws }) := by
  obtain ⟨p, hp⟩ := writeBytes_eq bytes (writeByte addr (beginTransaction s))
    { device := s.straps.deviceAddr, sent := [addr] } (by simp [writeByte, beginTransaction])
  unfold memWrite
  simp only [hp, endTransaction]
  simp [deliver, dropPointer, logCall, writeByte, beginTransaction, nextStatus, takeStatus, writeCalls]

/-- A bus read whose address phase succeeds (R42): it gets a byte and changes no register. -/
theorem memRead_ok (addr : Byte) (s : State) (h : nextStatus s = .ok) :
    memRead addr s =
      (some (byteAt addr s),
        { s with
          inFlight := none
          pointer := none
          calls := s.calls ++ readCalls s.straps.deviceAddr addr (byteAt addr s)
          statusIn := s.statusIn.tail
          byteIn := byteInAfterRead addr s
          statusDraws := drawsAfter s.statusIn s.statusDraws
          byteDraws := byteDrawsAfterRead addr s }) := by
  have hn : nextStatus (writeByte addr (beginTransaction s)) = .ok := h
  unfold memRead
  simp only [endTransaction, hn]
  simp only [readByte, requestRead, writeByte, beginTransaction, pointerAfter, logCall, takeStatus, deliver,
    Option.map_some, List.nil_append, chipWrite_nil, Option.bind_some, byteAt, byteInAfterRead, byteDrawsAfterRead]
  cases hr : Memory.read s.reg addr.toNat with
  | some b => simp [dropPointer, readCalls]
  | none => simp [dropPointer, readCalls, takeByte, nextByte]

/-- A bus read whose address phase faults (R42): it gets no byte, and the register it addressed is unknown (R167). -/
theorem memRead_fault (addr : Byte) (s : State) (h : nextStatus s = .fault) :
    memRead addr s =
      (none,
        { s with
          reg := Memory.forget addr.toNat s.reg
          inFlight := none
          pointer := none
          calls := s.calls ++ readFaultCalls s.straps.deviceAddr addr
          statusIn := s.statusIn.tail
          statusDraws := drawsAfter s.statusIn s.statusDraws }) := by
  have hn : nextStatus (writeByte addr (beginTransaction s)) = .fault := h
  unfold memRead
  simp only [endTransaction, hn]
  simp [writeByte, beginTransaction, logCall, takeStatus, deliver, loseRegister, dropPointer, readFaultCalls]

/-- Everything a bus read does to the register image: nothing, or it makes the register it addressed unknown. -/
theorem reg_memRead (addr : Byte) (s : State) :
    (memRead addr s).2.reg = s.reg ∨ (memRead addr s).2.reg = Memory.forget addr.toNat s.reg := by
  cases h : nextStatus s with
  | ok => rw [memRead_ok addr s h]; exact .inl rfl
  | fault => rw [memRead_fault addr s h]; exact .inr rfl

end Sys2Proof.Machine
end

