-- ==== Sys2Proof/Laws/Commands.lean ====
section
/-! SUPPORT. What the latches, the buffer, the channel write and the allocator do, once each. -/

namespace Sys2Proof.Machine

theorem getElem_loadLatches (i : Nat) (ws : List Word) (v : Vector Word 16) (k : Nat) (hk : k < 16) :
    (loadLatches i ws v)[k] = if h : i ≤ k ∧ k < i + ws.length then ws[k - i] else v[k] := by
  induction ws generalizing i v with
  | nil => simp only [loadLatches, List.length_nil]; rw [dif_neg (by omega)]
  | cons w ws ih =>
    simp only [loadLatches, ih, List.length_cons]
    by_cases h : i + 1 ≤ k ∧ k < i + 1 + ws.length
    · rw [dif_pos h, dif_pos (by omega)]
      simp only [List.getElem_cons]
      rw [dif_neg (by omega)]
      congr 1
    · rw [dif_neg h, Vector.getElem_setIfInBounds]
      by_cases e : i = k
      · subst e; simp
      · rw [if_neg e, dif_neg (by omega)]

theorem getElem_loadBuf (i : Nat) (bs : List Byte) (v : Vector Byte 64) (k : Nat) (hk : k < 64) :
    (loadBuf i bs v)[k] = if h : i ≤ k ∧ k < i + bs.length then bs[k - i] else v[k] := by
  induction bs generalizing i v with
  | nil => simp only [loadBuf, List.length_nil]; rw [dif_neg (by omega)]
  | cons w ws ih =>
    simp only [loadBuf, ih, List.length_cons]
    by_cases h : i + 1 ≤ k ∧ k < i + 1 + ws.length
    · rw [dif_pos h, dif_pos (by omega)]
      simp only [List.getElem_cons]
      rw [dif_neg (by omega)]
      congr 1
    · rw [dif_neg h, Vector.getElem_setIfInBounds]
      by_cases e : i = k
      · subst e; simp
      · rw [if_neg e, dif_neg (by omega)]

/-- The latches give back the operands loaded into them (R22, R120). -/
theorem latchValues_loaded (values : List Word) (s : State) (h : values.length ≤ 16)
    (hl : s.latches = loadLatches 0 values v) : latchValues values.length s = values := by
  unfold latchValues
  rw [hl]
  apply List.ext_getElem
  · simp [h]
  · intro k h1 h2
    rw [List.getElem_take, Vector.getElem_toList, getElem_loadLatches _ _ _ _ (by omega), dif_pos (by omega)]
    simp

/-- The buffer gives back the bytes filled into it (R24). -/
theorem bufBytes_fillBuf (bytes : List Byte) (s : State) (h : bytes.length ≤ 64) :
    bufBytes bytes.length (fillBuf bytes s) = bytes := by
  unfold bufBytes fillBuf
  apply List.ext_getElem
  · simp [h]
  · intro k h1 h2
    rw [List.getElem_take, Vector.getElem_toList, getElem_loadBuf _ _ _ _ (by omega), dif_pos (by omega)]
    simp

@[simp] theorem length_pairBytes (p : Pair) : (pairBytes p).length = 4 := rfl

@[simp] theorem length_packPairs (ps : List Pair) : (packPairs ps).length = 4 * ps.length := by
  induction ps with
  | nil => rfl
  | cons p ps ih => simp [packPairs, List.flatMap_cons] at ih ⊢; omega

@[simp] theorem length_walk (overlap offset : Int) (vs : List Word) :
    (walk overlap offset vs).1.length = vs.length := by
  induction vs generalizing offset with
  | nil => rfl
  | cons v vs ih => unfold walk; split <;> simp [ih]

/-- The write of one channel (R110): the pair's four bytes in `BUF`, and one bus write of them at the channel's
base. -/
theorem writeChannel_eq (ch : Byte) (p : Pair) (s : State) :
    writeChannel ch p s =
      (nextStatus s,
        { s with
          buf := loadBuf 0 (pairBytes p) s.buf
          reg := chipWrite s.straps.prescalerNeedsSleep (nextStatus s) (chanBase ch.toNat).toNat (pairBytes p) s.reg
          inFlight := none
          pointer := none
          calls := s.calls ++ writeCalls s.straps.deviceAddr (chanBase ch.toNat) (pairBytes p) (nextStatus s)
          statusIn := s.statusIn.tail
          statusDraws := drawsAfter s.statusIn s.statusDraws }) := by
  unfold writeChannel
  simp only
  rw [show (4 : Nat) = (pairBytes p).length from rfl, bufBytes_fillBuf _ _ (by simp), memWrite_eq]
  rfl

theorem latchValues_tally (values : List Word) (s : State) (h : values.length ≤ 16) :
    latchValues values.length (tally values s) = values :=
  latchValues_loaded values _ h rfl

/-- The overlap SETA walks with, given what the register held before (R122, R128). -/
def overlapAfter (values : List Word) (before : Int) : Int :=
  if countDimmed values = 0 then before else overlapOf (countDimmed values) (sumDimmed values)

/-- Everything the allocator does (R121 to R125): latches, working registers and buffer, and nothing else. -/
theorem allocate_eq (values : List Word) (s : State) (h : values.length ≤ 16) :
    allocate values s =
      { s with
        latches := loadLatches 0 values s.latches
        dimmedCount := countDimmed values
        totalDimmedTicks := sumDimmed values
        overlap := overlapAfter values s.overlap
        offset := (walk (overlapAfter values s.overlap) 0 values).2
        buf := loadBuf 0 (packPairs (walk (overlapAfter values s.overlap) 0 values).1) s.buf } := by
  have hv : ∀ t : State, t.latches = loadLatches 0 values s.latches → latchValues values.length t = values :=
    fun t ht => latchValues_loaded values t h ht
  have hc : computeOverlap (tally values s) =
      { s with
        latches := loadLatches 0 values s.latches
        dimmedCount := countDimmed values
        totalDimmedTicks := sumDimmed values
        overlap := overlapAfter values s.overlap } := by
    unfold computeOverlap tally overlapAfter
    simp only
    rw [hv _ rfl]
    split <;> rfl
  unfold allocate packWalk walkLatches fillBuf
  simp only [hc]
  rw [hv _ rfl]

/-- The payload of SETA's block write, from the state the allocator leaves (R125). -/
theorem bufBytes_allocate (values : List Word) (s : State) (h : values.length ≤ 16) :
    bufBytes (4 * values.length) (allocate values s)
      = packPairs (walk (overlapAfter values s.overlap) 0 values).1 := by
  have hl : (packPairs (walk (overlapAfter values s.overlap) 0 values).1).length = 4 * values.length := by simp
  rw [allocate_eq values s h, ← hl]
  exact bufBytes_fillBuf (packPairs (walk (overlapAfter values s.overlap) 0 values).1) s (by omega)

/-- SETA's block write after the allocator, where it issues one (R120, R125). -/
theorem blockWrite_allocate (values : List Word) (s : State) (h : values.length ≤ 16)
    (hw : ¬ (values.length = 0 ∧ s.straps.setAllEmpty = .noTransaction)) :
    blockWrite values.length (allocate values s) =
      (nextStatus s,
        { allocate values s with
          reg := chipWrite s.straps.prescalerNeedsSleep (nextStatus s) 0x06
            (packPairs (walk (overlapAfter values s.overlap) 0 values).1) s.reg
          inFlight := none
          pointer := none
          calls := s.calls ++ writeCalls s.straps.deviceAddr 0x06
            (packPairs (walk (overlapAfter values s.overlap) 0 values).1) (nextStatus s)
          statusIn := s.statusIn.tail
          statusDraws := drawsAfter s.statusIn s.statusDraws }) := by
  unfold blockWrite
  rw [bufBytes_allocate values s h, show (allocate values s).straps = s.straps by rw [allocate_eq values s h],
    if_neg hw, memWrite_eq]
  rw [allocate_eq values s h]
  rfl

/-- SETA's block write after the allocator, where it issues none (R131). -/
theorem blockWrite_allocate_none (values : List Word) (s : State) (h : values.length ≤ 16)
    (hw : values.length = 0 ∧ s.straps.setAllEmpty = .noTransaction) :
    blockWrite values.length (allocate values s) = (.ok, allocate values s) := by
  unfold blockWrite
  rw [show (allocate values s).straps = s.straps by rw [allocate_eq values s h], if_pos hw]

/-- The end of a command: one response, and `pc` past the command (R160, R162, R167). -/
theorem conclude_eq (length : Nat) (status : TxnStatus) (s : State) :
    conclude length (status, s) =
      { s with responses := s.responses ++ [responseFor status], pc := s.pc + length } := by
  cases status <;> rfl

end Sys2Proof.Machine
end

