-- ==== Sys2Proof/Laws/Inversion.lean ====
section
/-! SUPPORT. Said once: what a command can do. A command is either rejected on its argument, or it prepares latches,
working registers and buffer and then issues a sequence of bus accesses that stops at its first fault. -/

namespace Sys2Proof.Machine

/-- What a sequence of bus accesses can be, from a state to the status and state it leaves: the writes are of the
kind `allowed`, the reads of a register of the kind `readable`, and nothing follows a fault (R54, R162). -/
inductive Issued (allowed : Byte → List Byte → Prop) (readable : Byte → Prop) : State → TxnStatus × State → Prop
  | nothing (s : State) : Issued allowed readable s (.ok, s)
  | lastWrite (s : State) (addr : Byte) (bytes : List Byte) (h : allowed addr bytes) :
      Issued allowed readable s (memWrite addr bytes s)
  | faultedRead (s : State) (addr : Byte) (ha : readable addr) (h : nextStatus s = .fault) :
      Issued allowed readable s (.fault, (memRead addr s).2)
  | read (s : State) (addr : Byte) (ha : readable addr) (h : nextStatus s = .ok) (r : TxnStatus × State)
      (next : Issued allowed readable (memRead addr s).2 r) : Issued allowed readable s r
  | write (s : State) (addr : Byte) (bytes : List Byte) (h : allowed addr bytes) (hs : nextStatus s = .ok)
      (r : TxnStatus × State) (next : Issued allowed readable (memWrite addr bytes s).2 r) : Issued allowed readable s r

theorem issued_andThen_write {allowed : Byte → List Byte → Prop} {readable : Byte → Prop} (s : State) (addr : Byte) (bytes : List Byte)
    (h : allowed addr bytes) (k : State → TxnStatus × State)
    (hk : nextStatus s = .ok → Issued allowed readable (memWrite addr bytes s).2 (k (memWrite addr bytes s).2)) :
    Issued allowed readable s (andThen (memWrite addr bytes s) k) := by
  have h1 : (memWrite addr bytes s).1 = nextStatus s := by rw [memWrite_eq]
  unfold andThen
  cases hs : nextStatus s with
  | ok => simp only [h1, hs]; exact .write s addr bytes h hs _ (hk hs)
  | fault =>
    simp only [h1, hs]
    have : (TxnStatus.fault, (memWrite addr bytes s).2) = memWrite addr bytes s := Prod.ext (h1.trans hs).symm rfl
    rw [this]
    exact .lastWrite s addr bytes h

theorem issued_withByte {allowed : Byte → List Byte → Prop} {readable : Byte → Prop} (s : State) (addr : Byte)
    (ha : readable addr) (k : Byte → State → TxnStatus × State)
    (hk : nextStatus s = .ok → Issued allowed readable (memRead addr s).2 (k (byteAt addr s) (memRead addr s).2)) :
    Issued allowed readable s (withByte (memRead addr s) k) := by
  unfold withByte
  cases hs : nextStatus s with
  | ok =>
    have h1 : (memRead addr s).1 = some (byteAt addr s) := by rw [memRead_ok addr s hs]
    simp only [h1]
    exact .read s addr ha hs _ (hk hs)
  | fault =>
    have h1 : (memRead addr s).1 = none := by rw [memRead_fault addr s hs]
    simp only [h1]
    exact .faultedRead s addr ha hs

/-- A property of states that readable reads keep and allowed writes keep is kept by a sequence of them. -/
theorem Issued.keeps {allowed : Byte → List Byte → Prop} {readable : Byte → Prop} {P : State → Prop}
    (hw : ∀ s addr bytes, allowed addr bytes → P s → P (memWrite addr bytes s).2)
    (hr : ∀ s addr, readable addr → P s → P (memRead addr s).2) {s : State} {r : TxnStatus × State}
    (h : Issued allowed readable s r) (hs : P s) : P r.2 := by
  induction h with
  | nothing s => exact hs
  | lastWrite s addr bytes h => exact hw _ _ _ h hs
  | faultedRead s addr ha _ => exact hr _ _ ha hs
  | read s addr ha _ r _ ih => exact ih (hr _ _ ha hs)
  | write s addr bytes h _ r _ ih => exact ih (hw _ _ _ h hs)

/-- The bus writes a command can make: its register address and bytes (R43, R48). -/
def writesOf : Instr → Byte → List Byte → Prop
  | .sett ch on off => fun addr bytes => addr = chanBase ch.toNat ∧ bytes = pairBytes { on := on, off := off }
  | .setd ch v => fun addr bytes => addr = chanBase ch.toNat ∧ bytes = pairBytes (dutyPair v)
  | .seta values => fun addr bytes => addr = 0x06 ∧ ∃ overlap, bytes = packPairs (walk overlap 0 values).1
  | .init => fun addr bytes => (addr = 0x00 ∧ ∃ m, bytes = [m]) ∨ (addr = 0xFE ∧ ∃ f, bytes = [prescale f])
  | .setf _ => fun addr bytes => (addr = 0x00 ∧ ∃ m, bytes = [m]) ∨ (addr = 0xFE ∧ ∃ f, bytes = [prescale f])
  | .setm _ => fun addr bytes => addr = 0x01 ∧ ∃ m, bytes = [m]

/-- The registers a command can read (R43, R48). -/
def readsOf : Instr → Byte → Prop
  | .sett _ _ _ => fun _ => False
  | .setd _ _ => fun _ => False
  | .seta _ => fun _ => False
  | .init => fun addr => addr = 0x00
  | .setf _ => fun addr => addr = 0x00
  | .setm _ => fun addr => addr = 0x01

/-- Whether a command is rejected on its argument (R161). -/
def rejectedArg : Instr → Prop
  | .sett ch _ _ => 15 < ch.toNat
  | .setd ch _ => 15 < ch.toNat
  | .seta values => 16 < values.length
  | .init => False
  | .setf _ => False
  | .setm _ => False

/-- The state a command issues its bus accesses from. -/
def prepare : Instr → State → State
  | .sett _ on off, s => { s with buf := loadBuf 0 (pairBytes { on := on, off := off }) s.buf }
  | .setd _ v, s => { s with buf := loadBuf 0 (pairBytes (dutyPair v)) s.buf }
  | .seta values, s => allocate values s
  | .init, s => s
  | .setf _, s => s
  | .setm _, s => s

theorem setFrequency_issued (allowed : Byte → List Byte → Prop) (readable : Byte → Prop)
    (hm : ∀ m, allowed 0x00 [m]) (hp : ∀ f, allowed 0xFE [prescale f]) (hr : readable 0x00) (f : Word) (s : State) :
    Issued allowed readable s (setFrequency f s) := by
  unfold setFrequency bracketedPrescaler
  split
  · exact issued_withByte _ _ hr _ fun _ =>
      issued_andThen_write _ _ _ (hm _) _ fun _ =>
        issued_andThen_write _ _ _ (hp f) _ fun _ => .lastWrite _ _ _ (hm _)
  · exact .lastWrite _ _ _ (hp f)

/-- Everything a command can do, said once. -/
theorem exec_cases (i : Instr) (s : State) :
    (rejectedArg i ∧ exec i s = .next (raiseException .invalidArgument i.length s)) ∨
    (¬ rejectedArg i ∧ ∃ r, exec i s = .next (conclude i.length r) ∧ Issued (writesOf i) (readsOf i) (prepare i s) r) := by
  cases i with
  | sett ch on off =>
    simp only [exec, execSett, rejectedArg]
    by_cases h : 15 < ch.toNat
    · exact .inl ⟨h, by rw [if_pos h]; rfl⟩
    · refine .inr ⟨h, _, by rw [if_neg h]; rfl, ?_⟩
      have e : writeChannel ch { on := on, off := off } s =
          memWrite (chanBase ch.toNat) (pairBytes { on := on, off := off })
            (prepare (.sett ch on off) s) := by
        rw [writeChannel_eq, memWrite_eq]; rfl
      rw [e]
      exact .lastWrite _ _ _ ⟨rfl, rfl⟩
  | setd ch v =>
    simp only [exec, execSetd, rejectedArg]
    by_cases h : 15 < ch.toNat
    · exact .inl ⟨h, by rw [if_pos h]; rfl⟩
    · refine .inr ⟨h, _, by rw [if_neg h]; rfl, ?_⟩
      have e : writeChannel ch (dutyPair v) s =
          memWrite (chanBase ch.toNat) (pairBytes (dutyPair v)) (prepare (.setd ch v) s) := by
        rw [writeChannel_eq, memWrite_eq]; rfl
      rw [e]
      exact .lastWrite _ _ _ ⟨rfl, rfl⟩
  | seta values =>
    simp only [exec, execSeta, rejectedArg]
    by_cases h : 16 < values.length
    · exact .inl ⟨h, by rw [if_pos h]; rfl⟩
    · refine .inr ⟨h, _, by rw [if_neg h]; rfl, ?_⟩
      unfold blockWrite
      split
      · exact .nothing _
      · rw [bufBytes_allocate values s (by omega)]
        exact .lastWrite _ _ _ ⟨rfl, _, rfl⟩
  | init =>
    refine .inr ⟨id, _, rfl, ?_⟩
    exact issued_andThen_write _ _ _ (.inl ⟨rfl, _, rfl⟩) _ fun _ =>
      setFrequency_issued (writesOf .init) (readsOf .init) (fun m => .inl ⟨rfl, m, rfl⟩) (fun f => .inr ⟨rfl, f, rfl⟩)
        (Eq.refl (0x00 : Byte)) _ _
  | setf hz =>
    refine .inr ⟨id, _, rfl, ?_⟩
    exact setFrequency_issued (writesOf (.setf hz)) (readsOf (.setf hz)) (fun m => .inl ⟨rfl, m, rfl⟩) (fun f => .inr ⟨rfl, f, rfl⟩)
        (Eq.refl (0x00 : Byte)) _ _
  | setm t =>
    refine .inr ⟨id, _, rfl, ?_⟩
    exact issued_withByte (allowed := writesOf (.setm t)) (readable := readsOf (.setm t)) _ _
      (Eq.refl (0x01 : Byte)) _ fun _ => .lastWrite _ _ _ ⟨rfl, _, rfl⟩

/-- Everything a step can do, said once (R79, R163, R176). -/
theorem step_next_cases {s t : State} (h : step s = .next t) :
    (∃ why rest, fetch s = .illegal why rest ∧ t = illegalCommand s) ∨
    (∃ i rest, fetch s = .command i rest ∧ exec i s = .next t) := by
  unfold step at h
  split at h
  · rename_i i rest hf; exact .inr ⟨i, rest, hf, h⟩
  · rename_i why rest hf; injection h with h; exact .inl ⟨why, rest, hf, h.symm⟩
  · cases h
  · cases h

end Sys2Proof.Machine
end

