-- ==== Sys2Proof/Laws/PerInstr.lean ====
section
/-! SUPPORT. A fact about every command as syntax, one lemma per constructor. -/

namespace Sys2Proof.Laws

/-- The header word of a command's encoding has `rsv` 0 and an opcode that the map assigns (R71, R75). -/
def EncodeHeader.Statement (i : Instr) : Prop :=
  ∃ h operands, encode i = h :: operands ∧ headerRsv h = 0 ∧ (opcodeOf (headerOp h)).isSome = true

theorem headerRsv_headerWord (op : Opcode) (arg : Byte) : headerRsv (headerWord op arg) = 0 := by
  apply BitVec.eq_of_getLsbD_eq
  intro k hk
  simp only [headerRsv, headerWord, BitVec.getLsbD_extractLsb', BitVec.getLsbD_append, BitVec.getLsbD_zero]
  rw [if_neg (by omega), if_pos (by omega)]
  simp

theorem headerOp_headerWord (op : Opcode) (arg : Byte) : headerOp (headerWord op arg) = opcodeNumber op := by
  apply BitVec.eq_of_getLsbD_eq
  intro k hk
  simp only [headerOp, headerWord, BitVec.getLsbD_extractLsb', BitVec.getLsbD_append]
  rw [if_neg (by omega), if_neg (by omega)]
  simp only [hk, decide_true, Bool.true_and]
  congr 1
  omega

theorem headerArg_headerWord (op : Opcode) (arg : Byte) : headerArg (headerWord op arg) = arg := by
  apply BitVec.eq_of_getLsbD_eq
  intro k hk
  simp only [headerArg, headerWord, BitVec.getLsbD_extractLsb', BitVec.getLsbD_append]
  rw [if_pos (by omega)]
  simp [hk]

theorem opcodeOf_opcodeNumber (op : Opcode) : opcodeOf (opcodeNumber op) = some op := by
  cases op <;> decide

theorem encodeHeader_of (i : Instr) (op : Opcode) (arg : Byte) (operands : List Word)
    (h : encode i = headerWord op arg :: operands) : EncodeHeader.Statement i :=
  ⟨_, operands, h, headerRsv_headerWord op arg, by rw [headerOp_headerWord, opcodeOf_opcodeNumber]; rfl⟩

theorem EncodeHeader.sett (ch : Byte) (on off : Word) : EncodeHeader.Statement (.sett ch on off) :=
  encodeHeader_of _ .sett ch [on, off] rfl

theorem EncodeHeader.setd (ch : Byte) (value : Word) : EncodeHeader.Statement (.setd ch value) :=
  encodeHeader_of _ .setd ch [value] rfl

theorem EncodeHeader.seta (values : List Word) : EncodeHeader.Statement (.seta values) :=
  encodeHeader_of _ .seta (BitVec.ofNat 8 values.length) values rfl

theorem EncodeHeader.init : EncodeHeader.Statement .init := encodeHeader_of _ .init 0 [] rfl

theorem EncodeHeader.setf (hz : Word) : EncodeHeader.Statement (.setf hz) := encodeHeader_of _ .setf 0 [hz] rfl

theorem EncodeHeader.setm (totemPole : Bool) : EncodeHeader.Statement (.setm totemPole) :=
  encodeHeader_of _ .setm (if totemPole then 1 else 0) [] rfl

end Sys2Proof.Laws
end

