-- ==== Sys2Proof/Tests/Slice0.lean ====
section
/-! SUPPORT. Tests on fixed values, expected results from spec/95_test_vectors.md (V-…) or from the rule named, and a
witness for the hypotheses of every statement that has any. -/

namespace Sys2Proof.Tests

open Sys2Proof Sys2Proof.Machine

/-! ### Helpers -/

/-- A machine whose chip has known registers and whose next transactions have known statuses. -/
def bench (reg : Memory) (statuses : List TxnStatus) : State :=
  { State.reset with reg := reg, statusIn := statuses }

/-- The next state, if there is one. -/
def after : Host.Outcome State Fault Refusal → Option State
  | .next t => some t
  | .fault _ => none
  | .refused _ => none

/-- What a test looks at: the calls made, the responses, `pc` and the register image. -/
def seen (i : Instr) (s : State) : Option (List Call × List Response × Nat × Memory) :=
  (after (exec i s)).map fun t => (t.calls, t.responses, t.pc, t.reg)

/-- The calls that "W aa: b0 b1 …" of 95_test_vectors.md stands for (R41). -/
def W (addr : Byte) (bytes : List Byte) (status : TxnStatus) : List Call :=
  [.beginTransaction 0x40, .writeByte addr] ++ bytes.map .writeByte ++ [.endTransaction status]

/-- The calls that "R aa -> bb" of 95_test_vectors.md stands for (R42). -/
def R (addr b : Byte) : List Call :=
  [.beginTransaction 0x40, .writeByte addr, .endTransaction .ok, .requestRead 0x40 1, .readByte b]

/-- MODE1 with AUTO-INCREMENT on, and the first transactions successful. -/
def s0 : State := bench [(0x00, 0x20)] [.ok, .ok, .ok, .ok, .ok]

theorem next_of_isSome (o : Host.Outcome State Fault Refusal) (h : (after o).isSome = true) : ∃ t, o = .next t := by
  cases o with
  | next t => exact ⟨t, rfl⟩
  | fault _ => cases h
  | refused _ => cases h

/-! ### Well-formedness -/

/-- R71: an 8-bit count cannot carry 256 values; the check refuses the term. -/
theorem test_wf_refuses_256_values : (Instr.seta (List.replicate 256 0)).wf = false := by decide +kernel

theorem test_wf_accepts_255_values : (Instr.seta (List.replicate 255 0)).wf = true := by decide +kernel

/-! ### Decoding: words written out from the encodings of R71 to R75 -/

/-- V-T1: `op` 1, `rsv` 0, `arg` 2, then 100 and 300. -/
theorem test_decode_sett : decode true [0b0001000000000010, 0x0064, 0x012C] = .command (.sett 2 100 300) [] := by
  decide +kernel

/-- V-D4: `op` 2, `rsv` 0, `arg` 3, then 4094; the next word is left. -/
theorem test_decode_setd :
    decode true [0b0010000000000011, 0x0FFE, 0x8000] = .command (.setd 3 4094) [0x8000] := by decide +kernel

/-- V-A7: `op` 3, `rsv` 0, `arg` 2, then 10 and 20. -/
theorem test_decode_seta : decode true [0b0011000000000010, 0x000A, 0x0014] = .command (.seta [10, 20]) [] := by
  decide +kernel

/-- V-I1. -/
theorem test_decode_init : decode true [0b1000000000000000] = .command .init [] := by decide +kernel

/-- V-F2. -/
theorem test_decode_setf : decode true [0b1001000000000000, 0x0032] = .command (.setf 50) [] := by decide +kernel

/-- V-M1, V-M2. -/
theorem test_decode_setm :
    decode true [0b1010000000000001] = .command (.setm true) [] ∧
    decode true [0b1010000000000000] = .command (.setm false) [] := by decide +kernel

/-- V-E1 to V-E8: the illegal words, each with its case of R77. -/
theorem test_decode_illegal :
    decode true [0x0000] = .illegal .unassignedOp [] ∧ decode true [0x4000] = .illegal .unassignedOp [] ∧
    decode true [0xFFFF] = .illegal .unassignedOp [] ∧ decode true [0x2100, 7] = .illegal .reservedBits [7] ∧
    decode true [0x8001] = .illegal .argNotZero [] ∧ decode true [0x9001] = .illegal .argNotZero [] ∧
    decode true [0xA002] = .illegal .argAboveOne [] ∧ decode false [0x8000] = .illegal .cfgAbsent [] := by
  decide +kernel

/-- V-E10. -/
theorem test_decode_truncated : decode true [0x3002, 0x0001] = .truncated := by decide +kernel

/-- R82: the assembler line of V-T1, a hexadecimal operand and a comment. -/
theorem test_assemble_line :
    assembleLine ['S', 'E', 'T', 'T', ' ', '2', ',', ' ', '1', '0', '0', ',', '0', 'x', '1', '2', 'c', ' ', ';', 'a'] =
      some [0x1002, 0x0064, 0x012C] := by decide +kernel

/-! ### A step runs each row's word as the first command after reset -/

theorem test_first_step_runs_every_row :
    ([0x1000, 0x2000, 0x3000, 0x8000, 0x9000, 0xA000].map fun w => decodeTableWord 16 w) =
      [some (.sett 0 0 0), some (.setd 0 0), some (.seta []), some .init, some (.setf 0), some (.setm false)] ∧
    ([0x1000, 0x2000, 0x3000, 0x8000, 0x9000, 0xA000].all fun w =>
      (after (step (State.reset.withFetchWord 16 w))).isSome) = true := by
  decide +kernel

/-- R176: at reset nothing has been delivered. -/
theorem test_reset_waits : step State.reset = .fault .awaitingCommand := rfl

/-- V-E4: `rsv` not 0: one word consumed, response 3, no transaction. -/
theorem test_illegal_command :
    ((after (step (State.feed [0x2100, 0x0000] s0))).map fun t => (t.calls, t.responses, t.pc)) =
      some ([], [.illegalCommand], 1) := by decide +kernel

/-! ### One step of each command -/

/-- V-T7: out-of-range values are truncated to 13 bits. -/
theorem test_sett_truncates : seen (.sett 5 0xFFFF 0x2FFF) s0 =
    some (W 0x1A [0xFF, 0x1F, 0xFF, 0x0F] .ok, [.ok], 3,
      [(0x00, 0x20), (0x1A, 0xFF), (0x1B, 0x1F), (0x1C, 0xFF), (0x1D, 0x0F)]) := by decide +kernel

/-- V-T8: channel 16 is refused before any transaction, all three words consumed. -/
theorem test_sett_refuses_channel_16 : seen (.sett 16 0 0) s0 =
    some ([], [.invalidArgument], 3, [(0x00, 0x20)]) := by decide +kernel

/-- V-D5: 4095 is fully on. -/
theorem test_setd_saturates : seen (.setd 1 4095) s0 =
    some (W 0x0A [0x00, 0x10, 0x00, 0x00] .ok, [.ok], 2,
      [(0x00, 0x20), (0x0A, 0x00), (0x0B, 0x10), (0x0C, 0x00), (0x0D, 0x00)]) := by decide +kernel

/-- V-D10: the transaction faults; the four registers are unknown afterwards. -/
theorem test_setd_fault : seen (.setd 4 1000) (bench [(0x00, 0x20), (0x16, 0x01), (0x1A, 0x07)] [.fault]) =
    some (W 0x16 [0x00, 0x00, 0xE8, 0x03] .fault, [.transportFault], 2, [(0x00, 0x20), (0x1A, 0x07)]) := by
  decide +kernel

/-- V-A7: floor, not truncation, of a negative quotient. -/
theorem test_seta_floors : seen (.seta [10, 20]) s0 =
    some (W 0x06 [0x00, 0x00, 0x0A, 0x00, 0xFB, 0x07, 0x0F, 0x08] .ok, [.ok], 3,
      [(0x00, 0x20), (0x06, 0x00), (0x07, 0x00), (0x08, 0x0A), (0x09, 0x00),
        (0x0A, 0xFB), (0x0B, 0x07), (0x0C, 0x0F), (0x0D, 0x08)]) := by decide +kernel

/-- V-A14: saturated channels among dimmed ones. -/
theorem test_seta_mixed : ((seen (.seta [2000, 0, 3000, 4095, 100]) s0).map fun x => x.1) =
    some (W 0x06 [0x00, 0x00, 0xD0, 0x07, 0x00, 0x00, 0x00, 0x10, 0x81, 0x06, 0x39, 0x02, 0x00, 0x10, 0x00, 0x00,
      0xEA, 0x00, 0x4E, 0x01] .ok) := by decide +kernel

/-- The bench with `DEFAULT_FREQ_HZ` = 1000 and a choice of bracket. -/
def bringUp (bracket : Bool) (statuses : List TxnStatus) : State :=
  { State.reset with
    statusIn := statuses
    straps := { Straps.reset with defaultFreqHz := 1000, prescaleSleepBracket := bracket } }

/-- V-I1. -/
theorem test_init_bracketed : seen .init (bringUp true [.ok, .ok, .ok, .ok, .ok]) =
    some (W 0x00 [0xA0] .ok ++ R 0x00 0xA0 ++ W 0x00 [0xB0] .ok ++ W 0xFE [0x05] .ok ++ W 0x00 [0xA0] .ok, [.ok], 1,
      [(0x00, 0xA0), (0xFE, 0x05)]) := by decide +kernel

/-- V-I2. -/
theorem test_init_unbracketed : seen .init (bringUp false [.ok, .ok]) =
    some (W 0x00 [0xA0] .ok ++ W 0xFE [0x05] .ok, [.ok], 1, [(0x00, 0xA0), (0xFE, 0x05)]) := by decide +kernel

/-- V-F2. -/
theorem test_setf_bracketed : seen (.setf 50) (bench [(0x00, 0xA0)] [.ok, .ok, .ok, .ok]) =
    some (R 0x00 0xA0 ++ W 0x00 [0xB0] .ok ++ W 0xFE [0x79] .ok ++ W 0x00 [0xA0] .ok, [.ok], 2,
      [(0x00, 0xA0), (0xFE, 0x79)]) := by decide +kernel

/-- V-F5: the PRESCALER write faults; the chip stays asleep. -/
theorem test_setf_fault : seen (.setf 50) (bench [(0x00, 0xA0), (0xFE, 0x1E)] [.ok, .ok, .fault]) =
    some (R 0x00 0xA0 ++ W 0x00 [0xB0] .ok ++ W 0xFE [0x79] .fault, [.transportFault], 2, [(0x00, 0xB0)]) := by
  decide +kernel

/-- V-M1. -/
theorem test_setm_sets : seen (.setm true) (bench [(0x01, 0x10)] [.ok, .ok]) =
    some (R 0x01 0x10 ++ W 0x01 [0x14] .ok, [.ok], 1, [(0x01, 0x14)]) := by decide +kernel

/-- V-M4. -/
theorem test_setm_clears : seen (.setm false) (bench [(0x01, 0xFF)] [.ok, .ok]) =
    some (R 0x01 0xFF ++ W 0x01 [0xFB] .ok, [.ok], 1, [(0x01, 0xFB)]) := by decide +kernel

/-- R42, R167: a bus read whose address phase faults gets no byte, and only the register it addressed is lost. -/
theorem test_faulted_read :
    (memRead 0x01 (bench [(0x00, 0x20), (0x01, 0x10), (0x06, 0x07)] [.fault])).1 = none ∧
    (memRead 0x01 (bench [(0x00, 0x20), (0x01, 0x10), (0x06, 0x07)] [.fault])).2.reg = [(0x00, 0x20), (0x06, 0x07)] := by
  decide +kernel

/-! ### Witnesses: the hypotheses of every statement are met, each clause at the ends of its range -/

theorem test_witness_PackingKeepsThirteenBits :
    (4095 : Word).toNat ≤ 4095 ∧ (4096 : Word).toNat = 4096 ∧
    (4097 ≤ (4097 : Word).toNat ∧ (4097 : Word).toNat ≤ 8191) ∧
    (4097 ≤ (8191 : Word).toNat ∧ (8191 : Word).toNat ≤ 8191) := by decide

theorem test_witness_ChannelBaseIsSixPlusFourTimesChannel : (0 : Nat) ≤ 15 ∧ (15 : Nat) ≤ 15 := by decide

theorem test_witness_DutyPairSaturatesAt4095 :
    (0 : Word).toNat = 0 ∧ 4095 ≤ (4095 : Word).toNat ∧ 4095 ≤ (65535 : Word).toNat ∧
    (1 ≤ (1 : Word).toNat ∧ (1 : Word).toNat ≤ 4094) ∧ (1 ≤ (4094 : Word).toNat ∧ (4094 : Word).toNat ≤ 4094) := by
  decide

theorem test_witness_PrescaleIsNearestInteger :
    (23 : Word).toNat < 24 ∧ 1526 < (1527 : Word).toNat ∧ (24 ≤ (24 : Word).toNat ∧ (24 : Word).toNat ≤ 1526) ∧
    (24 ≤ (1526 : Word).toNat ∧ (1526 : Word).toNat ≤ 1526) ∧ (23 : Word).toNat ≤ (24 : Word).toNat := by decide

theorem test_witness_OutputOfPairFollowsForceFlags :
    (4096 ≤ (4096 : BitVec 13).toNat ∧ (4095 : BitVec 13).toNat < 4096) ∧
    ((4095 : BitVec 13).toNat < 4096 ∧ 4096 ≤ (8191 : BitVec 13).toNat) ∧
    (4096 ≤ (8191 : BitVec 13).toNat ∧ 4096 ≤ (4096 : BitVec 13).toNat) ∧
    ((0 : BitVec 13).toNat < 4096 ∧ (0 : BitVec 13) = 0) ∧
    ((4095 : BitVec 13).toNat < 4096 ∧ (0 : BitVec 13).toNat < 4096 ∧ (4095 : BitVec 13) ≠ 0) := by decide

theorem test_witness_DecodeOfEncodeGivesCommandBack :
    (Instr.seta [1, 2]).wf = true ∧ (Instr.seta [1, 2]).present false = true ∧
    Instr.init.wf = true ∧ Instr.init.present true = true ∧ (Instr.setm true).present true = true := by decide

theorem test_witness_DecodedWordsAreTheEncoding :
    decode true [0xA001, 5] = .command (.setm true) [5] ∧ decode false [0x3000] = .command (.seta []) [] := by
  decide +kernel

/-- Each case of R77 at the ends of its range, and the stream that puts it first. -/
theorem test_witness_IllegalHeadersAreThoseOfTheRule :
    illegalHeader true 0x0000 ∧ illegalHeader true 0x4000 ∧ illegalHeader true 0x7000 ∧ illegalHeader true 0xB000 ∧
    illegalHeader true 0xF000 ∧ illegalHeader true 0x1100 ∧ illegalHeader true 0xAF00 ∧ illegalHeader true 0x8001 ∧
    illegalHeader true 0x90FF ∧ illegalHeader true 0xA002 ∧ illegalHeader false 0x8000 ∧ illegalHeader false 0xA001 ∧
    ¬ illegalHeader true 0xA001 ∧ ¬ illegalHeader true 0x30FF ∧ ¬ illegalHeader false 0x1000 ∧
    (State.feed [0x2100, 7] s0).stream.drop (State.feed [0x2100, 7] s0).pc = [0x2100, 7] := by
  refine ⟨?_, ?_, ?_, ?_, ?_, ?_, ?_, ?_, ?_, ?_, ?_, ?_, ?_, ?_, ?_, ?_⟩ <;> decide +kernel

theorem test_witness_HeaderAloneDecidesLength : ∃ t, step (State.feed [0x3001, 7, 9] s0) = .next t :=
  next_of_isSome _ (by decide +kernel)

theorem test_witness_EveryCommandAdvancesPcByItsLength :
    (∃ t, exec (.seta (List.replicate 17 7)) s0 = .next t) ∧ (∃ t, exec .init s0 = .next t) :=
  ⟨next_of_isSome _ (by decide +kernel), next_of_isSome _ (by decide +kernel)⟩

/-- Both sides of both equivalences: nothing delivered, and V-E10. -/
theorem test_witness_StuckExactlyWithoutAWholeCommand :
    step State.reset = .fault .awaitingCommand ∧ step (State.feed [0x3002, 0x0001] s0) = .fault .truncatedCommand ∧
    lengthByRule true 0x3002 = 3 := ⟨rfl, rfl, by decide +kernel⟩

theorem test_witness_StepRunsTheDecodedCommand :
    decode s0.straps.hasCfg ((State.feed [0x2010, 0x0800] s0).stream.drop s0.pc) = .command (.setd 16 2048) [] := by
  decide +kernel

theorem test_witness_AssemblerWordsAreTheEncoding :
    (Instr.seta [65535]).wf = true ∧ (256 ≤ 256 ∨ 65536 ≤ 0 ∨ 65536 ≤ 0) ∧ (256 ≤ 0 ∨ 65536 ≤ 65536) ∧
    256 ≤ (List.replicate 256 0).length ∧ (∃ v ∈ [65536], 65536 ≤ v) ∧ 2 ≤ 2 ∧ 65536 ≤ 65536 := by decide +kernel

theorem test_witness_BusWriteMakesCallsAndStores : (0xFF : Byte) ≠ 0xFE ∧ (0x00 : Byte) ≠ 0xFE := by decide

theorem test_witness_BusReadMakesCallsAndLosesItsRegisterOnAFault :
    nextStatus (bench [] [.fault]) = .fault ∧ nextStatus s0 = .ok ∧ Memory.read s0.reg (0x00 : Byte).toNat = some 0x20 ∧
    Memory.read s0.reg (0x01 : Byte).toNat = none := by decide +kernel

theorem test_witness_SettWritesItsChannel :
    (0 : Byte).toNat ≤ 15 ∧ (15 : Byte).toNat ≤ 15 ∧ 15 < (16 : Byte).toNat ∧ 15 < (255 : Byte).toNat ∧ nextStatus s0 = .ok ∧ nextStatus (bench [] [.fault]) = .fault := by
  decide +kernel

theorem test_witness_SetdWritesItsChannel :
    (0 : Byte).toNat ≤ 15 ∧ (15 : Byte).toNat ≤ 15 ∧ 15 < (16 : Byte).toNat ∧ 15 < (255 : Byte).toNat := by decide

theorem test_witness_InvalidArgumentBeforeAnyTransaction :
    15 < (16 : Byte).toNat ∧ 15 < (255 : Byte).toNat ∧ 16 < (List.replicate 17 (7 : Word)).length := by decide

theorem test_witness_SetdGivesTheRequestedOutput :
    (15 : Byte).toNat ≤ 15 ∧ nextStatus s0 = .ok ∧ Memory.autoIncrement s0.reg = true ∧ (14 : Nat) ≤ 15 ∧
    (14 : Nat) ≠ (15 : Byte).toNat := by decide +kernel

theorem test_witness_TallyCountsAndSumsDimmed : (List.replicate 16 (4094 : Word)).length ≤ 16 := by decide

theorem test_witness_OverlapIsFloorDivision :
    (0 < 1 ∧ 1 ≤ 16 ∧ 1 ≤ 1 ∧ 1 ≤ 4094 * 1) ∧ (0 < 16 ∧ 16 ≤ 16 ∧ 16 ≤ 65504 ∧ 65504 ≤ 4094 * 16) ∧
    (List.replicate 16 (4094 : Word)).length ≤ 16 ∧ (∃ t, exec (.seta [10, 20]) s0 = .next t) ∧
    (∃ t, exec (.seta [0, 4095]) s0 = .next t) :=
  ⟨by decide, by decide, by decide, next_of_isSome _ (by decide +kernel), next_of_isSome _ (by decide +kernel)⟩

theorem test_witness_WalkFollowsClosedForm :
    ([10, 20] : List Word)[1]? = some 20 ∧ classify 20 = .dimmed ∧ classify 1 = .dimmed ∧ classify 4094 = .dimmed ∧
    (3838 : Int) ≤ 3838 ∧ (-4094 : Int) ≤ 3838 := by
  decide +kernel

theorem test_witness_SaturatedChannelsAreOutsideTheAllocation :
    ([7, 0, 4095] : List Word)[1]? = some 0 ∧ classify 0 = .off ∧ ([7, 0, 4095] : List Word)[2]? = some 4095 ∧
    classify 4095 = .on := by decide +kernel

theorem test_witness_DimmedDurationIsExact :
    ([10, 20] : List Word)[1]? = some 20 ∧ classify 20 = .dimmed ∧
    (walk (-2033) 0 [10, 20]).1[1]? = some { on := 2043, off := 2063 } := by decide +kernel

theorem test_witness_AdvancesSpreadOverThePeriod :
    0 < countDimmed [1] ∧ ([1] : List Word).length ≤ 16 ∧ 0 < countDimmed (List.replicate 16 4094) ∧
    (List.replicate 16 (4094 : Word)).length ≤ 16 := by decide +kernel

theorem test_witness_FirstDimmedChannelStartsAtZero :
    ([0, 4095, 2048] : List Word)[2]? = some 2048 ∧ classify 2048 = .dimmed ∧
    dimmedOnly (([0, 4095, 2048] : List Word).take 2) = [] := by decide +kernel

theorem test_witness_NoDimmedChannelGivesSentinelsOnly :
    ([0, 4095, 0, 4095] : List Word).length ≤ 16 ∧ dimmedOnly [0, 4095, 0, 4095] = [] ∧
    s0.straps.setAllEmpty = .addressOnlyWrite ∧ dimmedOnly [] = [] := by decide +kernel

theorem test_witness_SetaIssuesOneBlockWrite :
    (List.replicate 16 (1 : Word)).length ≤ 16 ∧ (([] : List Word).length ≤ 16 ∧
      (([] : List Word).length = 0 → s0.straps.setAllEmpty = .addressOnlyWrite)) := by decide +kernel

/-- An instance with the other value of `SETALL_EMPTY`. -/
def noTransaction : State := { s0 with straps := { s0.straps with setAllEmpty := .noTransaction } }

theorem test_witness_SetaOfNoValuesFollowsItsParameter :
    s0.straps.setAllEmpty = .addressOnlyWrite ∧ noTransaction.straps.setAllEmpty = .noTransaction := by decide +kernel

theorem test_witness_SetaGivesTheRequestedOutputs :
    (List.replicate 16 (1 : Word)).length ≤ 16 ∧ 0 < (List.replicate 16 (1 : Word)).length ∧ nextStatus s0 = .ok ∧
    Memory.autoIncrement s0.reg = true ∧ ([0, 4095, 1, 4094] : List Word)[0]? = some 0 ∧
    ([0, 4095, 1, 4094] : List Word)[1]? = some 4095 ∧ 4095 ≤ (4095 : Word).toNat ∧
    ([0, 4095, 1, 4094] : List Word)[2]? = some 1 ∧ (1 ≤ (1 : Word).toNat ∧ (1 : Word).toNat ≤ 4094) ∧
    ([0, 4095, 1, 4094] : List Word)[3]? = some 4094 ∧ (1 ≤ (4094 : Word).toNat ∧ (4094 : Word).toNat ≤ 4094) ∧
    (([0, 4095, 1, 4094] : List Word).length ≤ 4 ∧ (4 : Nat) ≤ 15) := by decide +kernel

/-- An instance without the bracket on a chip that needs sleep (R196). -/
def unbracketedSleeper : State :=
  { bringUp false [.ok, .ok] with straps := { (bringUp false []).straps with prescalerNeedsSleep := true } }

theorem test_witness_InitSetsMode1AndDefaultFrequency :
    (s0.straps.prescaleSleepBracket = true ∧ ∀ k, k < 5 → statusAt k s0 = .ok) ∧
    ((bringUp false [.ok, .ok]).straps.prescaleSleepBracket = false ∧
      (∀ k, k < 2 → statusAt k (bringUp false [.ok, .ok]) = .ok) ∧
      (bringUp false [.ok, .ok]).straps.prescalerNeedsSleep = false) ∧
    (unbracketedSleeper.straps.prescaleSleepBracket = false ∧ (∀ k, k < 2 → statusAt k unbracketedSleeper = .ok) ∧
      unbracketedSleeper.straps.prescalerNeedsSleep = true) := by decide +kernel

theorem test_witness_SetfBracketsThePrescalerWrite :
    s0.straps.prescaleSleepBracket = true ∧ ∀ k, k < 4 → statusAt k s0 = .ok := by decide +kernel

theorem test_witness_SetfWithoutBracketWritesPrescalerOnly :
    (bringUp false [.ok]).straps.prescaleSleepBracket = false ∧
    unbracketedSleeper.straps.prescaleSleepBracket = false ∧ Memory.asleep unbracketedSleeper.reg = false := by
  decide +kernel

theorem test_witness_SetmChangesOneBitOfMode2 : ∀ k, k < 2 → statusAt k s0 = .ok := by decide +kernel

theorem test_witness_SetmStopsAtItsFirstFault :
    statusAt 0 (bench [] [.fault]) = .fault ∧ statusAt 0 (bench [] [.ok, .fault]) = .ok ∧
    statusAt 1 (bench [] [.ok, .fault]) = .fault := by decide +kernel

theorem test_witness_InitStopsWhereItsFirstWriteFaults : nextStatus (bench [] [.fault]) = .fault := by decide +kernel

theorem test_witness_SetfStopsAtItsFirstFault :
    (bench [] [.fault]).straps.prescaleSleepBracket = true ∧ statusAt 0 (bench [] [.fault]) = .fault ∧
    statusAt 0 (bench [] [.ok, .fault]) = .ok ∧ statusAt 1 (bench [] [.ok, .fault]) = .fault ∧
    (∀ k, k < 3 → statusAt k (bench [] [.ok, .ok, .ok, .fault]) = .ok) ∧
    statusAt 3 (bench [] [.ok, .ok, .ok, .fault]) = .fault := by decide +kernel

theorem test_witness_FaultInsideTheBracketLeavesTheChipAsleep :
    (bench [] [.ok, .ok, .fault]).straps.prescaleSleepBracket = true ∧
    statusAt 0 (bench [] [.ok, .ok, .fault]) = .ok ∧ statusAt 1 (bench [] [.ok, .ok, .fault]) = .ok ∧
    statusAt 2 (bench [] [.ok, .ok, .fault]) = .fault := by decide +kernel

/-- A step of each kind of end: OK, InvalidArgument, TransportFault, IllegalCommand. -/
theorem test_witness_OneResponsePerCommand :
    (∃ t, step (State.feed [0xA001] s0) = .next t) ∧ (∃ t, step (State.feed [0x2010, 0x0800] s0) = .next t) ∧
    (∃ t, step (State.feed [0xA001] (bench [] [.fault])) = .next t) ∧
    (∃ t, step (State.feed [0x0000] s0) = .next t) :=
  ⟨next_of_isSome _ (by decide +kernel), next_of_isSome _ (by decide +kernel), next_of_isSome _ (by decide +kernel),
    next_of_isSome _ (by decide +kernel)⟩

theorem test_witness_FaultingTransactionEndsItsCommand :
    ∃ t, step (State.feed [0x9000, 0x0032] (bench [] [.ok, .fault])) = .next t :=
  next_of_isSome _ (by decide +kernel)

theorem test_witness_StreamAndStrapsNeverChange : ∃ t, step (State.feed [0x8000] s0) = .next t :=
  next_of_isSome _ (by decide +kernel)

theorem test_witness_CommandsTouchOnlyTheirRegisters :
    ((∃ t, exec (.seta [10, 20]) s0 = .next t) ∧ Base (.seta [10, 20])) ∧
    ((∃ t, exec (.setf 50) s0 = .next t) ∧ ¬ Base (.setf 50)) ∧
    (¬ (0x06 ≤ 0x05 ∧ 0x05 ≤ 0x45) ∧ ¬ (0x06 ≤ 0x46 ∧ 0x46 ≤ 0x45)) :=
  ⟨⟨next_of_isSome _ (by decide +kernel), trivial⟩, ⟨next_of_isSome _ (by decide +kernel), id⟩, by decide⟩

/-- The same chip and transport behind a CTE with another history. -/
def otherHistory : State :=
  { s0 with latches := Vector.replicate 16 9, overlap := 3, offset := 7, pc := 5, responses := [.ok] }

theorem test_witness_NoHiddenState :
    otherHistory.straps = s0.straps ∧ otherHistory.reg = s0.reg ∧ otherHistory.statusIn = s0.statusIn ∧
    otherHistory.byteIn = s0.byteIn ∧ otherHistory.statusDraws = s0.statusDraws ∧
    otherHistory.byteDraws = s0.byteDraws ∧ otherHistory ≠ s0 ∧
    (∃ t, exec (.seta [10, 20]) s0 = .next t) ∧ (∃ t, exec (.seta [10, 20]) otherHistory = .next t) :=
  ⟨rfl, rfl, rfl, rfl, rfl, rfl, fun h => absurd (congrArg State.pc h) (by decide),
    next_of_isSome _ (by decide +kernel), next_of_isSome _ (by decide +kernel)⟩

theorem test_witness_PayloadDependsOnTheWordsAlone :
    Base (.setd 4 1000) ∧ (bench [] [.fault]).straps = s0.straps ∧
    (∃ t, exec (.setd 4 1000) s0 = .next t) ∧ (∃ t, exec (.setd 4 1000) (bench [] [.fault]) = .next t) :=
  ⟨trivial, rfl, next_of_isSome _ (by decide +kernel), next_of_isSome _ (by decide +kernel)⟩

theorem test_witness_BaseCommandsAreIdempotent :
    ∃ t u, Base (.setd 3 0x123) ∧ Memory.autoIncrement s0.reg = true ∧ nextStatus s0 = .ok ∧ nextStatus t = .ok ∧
      exec (.setd 3 0x123) s0 = .next t ∧ exec (.setd 3 0x123) t = .next u :=
  ⟨_, _, trivial, by decide +kernel, by decide +kernel, by decide +kernel, rfl, rfl⟩

/-- A state with something in every field the invariants speak of, about to run `SETA 10, 20`. -/
def busy : State :=
  { State.feed [0x3002, 0x000A, 0x0014] (bench [(0x00, 0xA0), (0x01, 0x04), (0x06, 0x12), (0x07, 0x1F), (0xFE, 0x03)] [.ok])
    with
      dimmedCount := 16
      totalDimmedTicks := 65504
      overlap := 3838
      offset := 184259
      calls := W 0xFE [0x03] .ok ++ R 0x01 0x04 }

theorem test_witness_StepKeepsMemoryCanonical : busy.memoryCanonical ∧ ∃ t, step busy = .next t :=
  ⟨by decide, next_of_isSome _ (by decide +kernel)⟩

theorem test_witness_StepKeepsOnlyDocumented : busy.onlyDocumented ∧ ∃ t, step busy = .next t :=
  ⟨by decide, next_of_isSome _ (by decide +kernel)⟩

theorem test_witness_StepKeepsHighBitsZero : busy.highBitsZero ∧ ∃ t, step busy = .next t :=
  ⟨by decide, next_of_isSome _ (by decide +kernel)⟩

theorem test_witness_StepKeepsPrescalerInRange : busy.prescalerInRange ∧ ∃ t, step busy = .next t :=
  ⟨by decide, next_of_isSome _ (by decide +kernel)⟩

theorem test_witness_StepKeepsWorkingRegistersInRange : busy.workingInRange ∧ ∃ t, step busy = .next t :=
  ⟨by decide, next_of_isSome _ (by decide +kernel)⟩

theorem test_witness_StepKeepsTransactionsWhole :
    busy.callsWhole ∧ busy.idle ∧ ∃ t, step busy = .next t :=
  ⟨by decide, by decide, next_of_isSome _ (by decide +kernel)⟩

end Sys2Proof.Tests
end

section
/-! Proofs of the scope family: the step that runs a decoded command, and the machine after a reset. -/

namespace Sys2Proof.Machine

/-- The branch of `step` that a command takes (R11, R54), said once so that no later proof unfolds `step` for it. -/
theorem step_of_fetch_command {s : State} {i : Instr} {rest : List Word} (h : fetch s = .command i rest) :
    step s = exec i s := by
  simp only [step, h]

/-- Settles O15: the hypothesis is `fetch` written out, so the command branch of `step` applies. -/
theorem stepRunsTheDecodedCommand : Obligations.StepRunsTheDecodedCommand := by
  unfold Obligations.StepRunsTheDecodedCommand
  intro s i rest hdecode
  have hfetch : fetch s = .command i rest := hdecode
  exact step_of_fetch_command hfetch

@[simp] theorem Memory.read_nil (a : Nat) : Memory.read [] a = none := rfl

@[simp] theorem State.reset_reg : State.reset.reg = [] := rfl

/-- R190, R193: the CTE's own part goes back to its reset values; the chip, the parameters and the record of calls
are outside it (log 23). -/
theorem hostReset_resets_only_the_cte (s : State) :
    s.hostReset.reg = s.reg ∧ s.hostReset.straps = s.straps ∧ s.hostReset.pc = 0 ∧
      s.hostReset.responses = [] ∧ s.hostReset.calls = s.calls :=
  ⟨rfl, rfl, rfl, rfl, rfl⟩

/-- Settles O44: the values after reset are the fields of `State.reset`; no register is known because its register
image is empty. -/
theorem resetIsIdleWithUnknownRegisters : Obligations.ResetIsIdleWithUnknownRegisters := by
  unfold Obligations.ResetIsIdleWithUnknownRegisters
  have hunknown : ∀ a, Memory.read State.reset.reg a = none := fun a => by
    rw [State.reset_reg, Memory.read_nil]
  exact ⟨rfl, rfl, rfl, rfl, rfl, rfl, rfl, rfl, hunknown, hostReset_resets_only_the_cte⟩

end Sys2Proof.Machine
end

section
/-! Proofs of the state family, part 1: a step keeps what its preparation, its bus accesses and its end keep; from that
the invariants of the register image, of the record of transport calls and of the working registers. -/

namespace Sys2Proof.Machine

/-! ### What a command changes before its bus accesses, and how it ends -/

/-- Step 3 of SETA as one update (R122, R128). -/
theorem computeOverlap_eq (s : State) :
    computeOverlap s =
      { s with overlap := if s.dimmedCount = 0 then s.overlap else overlapOf s.dimmedCount s.totalDimmedTicks } := by
  unfold computeOverlap
  split <;> rfl

/-- Before its bus accesses a command changes latches, working registers and buffer only. -/
theorem prepare_eq (i : Instr) (s : State) :
    ∃ latches dimmedCount totalDimmedTicks overlap offset buf, prepare i s =
      { s with
        latches := latches
        dimmedCount := dimmedCount
        totalDimmedTicks := totalDimmedTicks
        overlap := overlap
        offset := offset
        buf := buf } := by
  cases i with
  | seta values =>
    simp only [prepare, allocate, computeOverlap_eq]
    exact ⟨_, _, _, _, _, _, rfl⟩
  | sett _ _ _ | setd _ _ | init | setf _ | setm _ => exact ⟨_, _, _, _, _, _, rfl⟩

@[simp] theorem prepare_reg (i : Instr) (s : State) : (prepare i s).reg = s.reg := by
  obtain ⟨_, _, _, _, _, _, h⟩ := prepare_eq i s
  rw [h]

@[simp] theorem prepare_straps (i : Instr) (s : State) : (prepare i s).straps = s.straps := by
  obtain ⟨_, _, _, _, _, _, h⟩ := prepare_eq i s
  rw [h]

@[simp] theorem prepare_calls (i : Instr) (s : State) : (prepare i s).calls = s.calls := by
  obtain ⟨_, _, _, _, _, _, h⟩ := prepare_eq i s
  rw [h]

@[simp] theorem prepare_inFlight (i : Instr) (s : State) : (prepare i s).inFlight = s.inFlight := by
  obtain ⟨_, _, _, _, _, _, h⟩ := prepare_eq i s
  rw [h]

@[simp] theorem prepare_pointer (i : Instr) (s : State) : (prepare i s).pointer = s.pointer := by
  obtain ⟨_, _, _, _, _, _, h⟩ := prepare_eq i s
  rw [h]

@[simp] theorem prepare_pc (i : Instr) (s : State) : (prepare i s).pc = s.pc := by
  obtain ⟨_, _, _, _, _, _, h⟩ := prepare_eq i s
  rw [h]

theorem conclude_eq_finish (length : Nat) (r : TxnStatus × State) :
    conclude length r = finish (responseFor r.1) length r.2 := by
  obtain ⟨status, s⟩ := r
  cases status <;> rfl

/-! ### A property that every part of a step keeps -/

/-- Every part of a step keeps the property: preparing a command that is not rejected, each bus access such a command
can make, and the end of a command (R54, R160). -/
structure KeptByParts (P : State → Prop) : Prop where
  prepare : ∀ i s, ¬ rejectedArg i → P s → P (prepare i s)
  write : ∀ i addr bytes s, ¬ rejectedArg i → writesOf i addr bytes → P s → P (memWrite addr bytes s).2
  read : ∀ addr s, P s → P (memRead addr s).2
  finish : ∀ r length s, P s → P (finish r length s)

theorem KeptByParts.exec {P : State → Prop} (hP : KeptByParts P) {i : Instr} {s t : State}
    (hexec : exec i s = .next t) (hs : P s) : P t := by
  rcases exec_cases i s with ⟨-, heq⟩ | ⟨hlegal, r, heq, hissued⟩
  · rw [heq] at hexec
    obtain rfl := Host.Outcome.next.inj hexec
    exact hP.finish _ _ _ hs
  · rw [heq, conclude_eq_finish] at hexec
    obtain rfl := Host.Outcome.next.inj hexec
    exact hP.finish _ _ _ (hissued.keeps (fun s addr bytes hw => hP.write i addr bytes s hlegal hw)
      (fun s addr _ => hP.read addr s) (hP.prepare i s hlegal hs))

theorem KeptByParts.step {P : State → Prop} (hP : KeptByParts P) {s t : State}
    (hstep : step s = .next t) (hs : P s) : P t := by
  rcases step_next_cases hstep with ⟨-, -, -, rfl⟩ | ⟨i, -, -, hexec⟩
  · exact hP.finish _ _ _ hs
  · exact hP.exec hexec hs

/-! ### The register bytes a command can write -/

/-- A channel's base address does not wrap (R91). -/
theorem chanBase_toNat {ch : Nat} (h : ch ≤ 15) : (chanBase ch).toNat = 6 + 4 * ch := by
  simp only [chanBase, firstLedBase, regsPerChannel, BitVec.toNat_ofNat]
  omega

theorem pairBytes_eq_packPairs (p : Pair) : pairBytes p = packPairs [p] := by
  simp [packPairs]

theorem pack13_high_lt (v : Word) : (pack13 v).2.toNat < 32 := by
  have hhigh : (pack13 v).2.toNat = (v.extractLsb' 8 5).toNat :=
    (BitVec.toNat_append 0#3 (v.extractLsb' 8 5)).trans (by simp)
  rw [hhigh]
  exact (v.extractLsb' 8 5).isLt

/-- The bytes at odd places of a payload are the high bytes of its timing values (R44, R94, R125). -/
theorem packPairs_odd_lt (ps : List Pair) {k : Nat} (hk : k < (packPairs ps).length) (hodd : k % 2 = 1) :
    (packPairs ps)[k].toNat < 32 := by
  induction ps generalizing k with
  | nil => simp at hk
  | cons p ps ih =>
    match k, hodd with
    | 1, _ => exact pack13_high_lt p.on
    | 3, _ => exact pack13_high_lt p.off
    | k + 4, hodd => exact ih (k := k) (by simp at hk ⊢; omega) (by omega)

/-- The clamped quotient keeps PRESCALER in its range (R31, R101). -/
theorem prescale_toNat_range (f : Word) : 3 ≤ (prescale f).toNat ∧ (prescale f).toNat ≤ 253 := by
  have hclamp : 24 ≤ clampFreq f.toNat ∧ clampFreq f.toNat ≤ 1526 := by
    unfold clampFreq freqMin freqMax
    split
    · omega
    · split <;> omega
  have hlow : 4 ≤ (2 * oscHz + 4096 * clampFreq f.toNat) / (2 * 4096 * clampFreq f.toNat) := by
    rw [Nat.le_div_iff_mul_le (by omega)]
    unfold oscHz
    omega
  have hhigh : (2 * oscHz + 4096 * clampFreq f.toNat) / (2 * 4096 * clampFreq f.toNat) < 255 := by
    rw [Nat.div_lt_iff_lt_mul (by omega)]
    unfold oscHz
    omega
  simp only [prescale, prescaleNat, BitVec.toNat_ofNat]
  omega

/-- The register bytes a command can put on the bus: a mode register, a prescaler in range, or a timing register with
its reserved bits 0 (R48). -/
inductive WritableCell : Host.Cell → Prop
  | mode (a : Nat) (b : Byte) (ha : a ≤ 1) : WritableCell (a, b)
  | prescaler (f : Word) : WritableCell (0xFE, prescale f)
  | timing (a : Nat) (b : Byte) (hlow : 0x06 ≤ a) (hhigh : a ≤ 0x45) (hodd : a % 2 = 1 → b.toNat < 32) :
      WritableCell (a, b)

theorem writableCell_packPairs {base : Byte} {ps : List Pair} (hlow : 6 ≤ base.toNat) (heven : base.toNat % 2 = 0)
    (hhigh : base.toNat + 4 * ps.length ≤ 0x46) (k : Nat) (hk : k < (packPairs ps).length) :
    WritableCell (base.toNat + k, (packPairs ps)[k]) := by
  have hlen : k < 4 * ps.length := by simpa using hk
  exact .timing _ _ (by omega) (by omega) fun hodd => packPairs_odd_lt ps hk (by omega)

theorem writableCell_channel {ch : Byte} (hch : ch.toNat ≤ 15) (p : Pair) (k : Nat) (hk : k < (pairBytes p).length) :
    WritableCell ((chanBase ch.toNat).toNat + k, (pairBytes p)[k]) := by
  have hbase := chanBase_toNat hch
  simp only [pairBytes_eq_packPairs] at hk ⊢
  exact writableCell_packPairs (by omega) (by omega) (by simp; omega) k hk

theorem writableCell_frequency {addr : Byte} {bytes : List Byte}
    (h : (addr = 0x00 ∧ ∃ m, bytes = [m]) ∨ (addr = 0xFE ∧ ∃ f, bytes = [prescale f])) (k : Nat)
    (hk : k < bytes.length) : WritableCell (addr.toNat + k, bytes[k]) := by
  rcases h with ⟨rfl, m, rfl⟩ | ⟨rfl, f, rfl⟩
  · obtain rfl : k = 0 := by simpa using hk
    exact .mode _ _ (by decide)
  · obtain rfl : k = 0 := by simpa using hk
    exact .prescaler f

theorem writableCell_of_writesOf {i : Instr} {addr : Byte} {bytes : List Byte} (hlegal : ¬ rejectedArg i)
    (hw : writesOf i addr bytes) (k : Nat) (hk : k < bytes.length) : WritableCell (addr.toNat + k, bytes[k]) := by
  cases i with
  | sett ch on off =>
    obtain ⟨rfl, rfl⟩ := hw
    exact writableCell_channel (Nat.le_of_not_lt hlegal) _ k hk
  | setd ch v =>
    obtain ⟨rfl, rfl⟩ := hw
    exact writableCell_channel (Nat.le_of_not_lt hlegal) _ k hk
  | seta values =>
    obtain ⟨rfl, overlap, rfl⟩ := hw
    have hcount : values.length ≤ 16 := Nat.le_of_not_lt hlegal
    exact writableCell_packPairs (by decide) (by decide) (by rw [length_walk]; simp; omega) k hk
  | init => exact writableCell_frequency hw k hk
  | setf hz => exact writableCell_frequency hw k hk
  | setm t =>
    obtain ⟨rfl, m, rfl⟩ := hw
    obtain rfl : k = 0 := by simpa using hk
    exact .mode _ _ (by decide)

/-- What holds of every known register and of every byte a command can write is kept by a step. -/
theorem cells_keptByParts {Q : Host.Cell → Prop} (hQ : ∀ c, WritableCell c → Q c) :
    KeptByParts fun s => ∀ c ∈ s.reg, Q c where
  prepare i s _ hs := by rwa [prepare_reg]
  write i addr bytes s hlegal hw hs c hc := by
    rw [memWrite_eq] at hc
    rcases Memory.mem_chipWrite hc with ⟨k, hk, rfl⟩ | hc
    · exact hQ _ (writableCell_of_writesOf hlegal hw k hk)
    · exact hs c hc
  read addr s hs c hc := by
    rcases reg_memRead addr s with heq | heq <;> rw [heq] at hc
    · exact hs c hc
    · exact hs c (Memory.mem_forget hc).1
  finish _ _ _ hs := hs

/-- Settles O54: the bytes at odd addresses of the timing registers are high bytes of `pack13`, below 32. -/
theorem stepKeepsHighBitsZero : Obligations.StepKeepsHighBitsZero := by
  unfold Obligations.StepKeepsHighBitsZero
  intro s t hs hstep
  refine (cells_keptByParts fun c hc ⟨hlow, hhigh, hodd⟩ => ?_).step hstep hs
  cases hc with
  | mode a b ha => simp only at hlow; omega
  | prescaler f => simp at hhigh
  | timing a b _ _ hb => exact hb hodd

/-- Settles O53: every byte a command can write goes to a documented register. -/
theorem stepKeepsOnlyDocumented : Obligations.StepKeepsOnlyDocumented := by
  unfold Obligations.StepKeepsOnlyDocumented
  intro s t hs hstep
  refine (cells_keptByParts fun c hc => ?_).step hstep hs
  cases hc with
  | mode a b ha => simp only [documentedAddr]; omega
  | prescaler f => exact .inr (.inr (.inr rfl))
  | timing a b hlow hhigh _ => exact .inr (.inr (.inl ⟨hlow, hhigh⟩))

/-- Settles O55: a byte written to PRESCALER is a `prescale` of some frequency. -/
theorem stepKeepsPrescalerInRange : Obligations.StepKeepsPrescalerInRange := by
  unfold Obligations.StepKeepsPrescalerInRange
  intro s t hs hstep
  refine (cells_keptByParts fun c hc haddr => ?_).step hstep hs
  cases hc with
  | mode a b ha => simp only at haddr; omega
  | prescaler f => exact prescale_toNat_range f
  | timing a b _ hhigh _ => simp only at haddr; omega

end Sys2Proof.Machine
end

section
/-! Proofs of the state family, part 2: the record of transport calls and the allocator's working registers. -/

namespace Sys2Proof.Machine

/-! ### The record of transport calls -/

theorem portRun_append (device : BitVec 7) (phase : PortPhase) (cs ds : List Call) :
    portRun device phase (cs ++ ds) = (portRun device phase cs).bind fun next => portRun device next ds := by
  induction cs generalizing phase with
  | nil => rfl
  | cons c cs ih =>
    simp only [List.cons_append, portRun]
    cases portStep device phase c with
    | none => rfl
    | some next => exact ih next

/-- Whole transactions after whole transactions (R54). -/
theorem portRun_idle_append {device : BitVec 7} {cs ds : List Call} (hcs : portRun device .idle cs = some .idle)
    (hds : portRun device .idle ds = some .idle) : portRun device .idle (cs ++ ds) = some .idle := by
  rw [portRun_append, hcs, Option.bind_some, hds]

/-- Each byte written moves the port on by one (R41). -/
theorem portRun_writeBytes (device : BitVec 7) (n : Nat) (bytes : List Byte) :
    portRun device (.writing n) (bytes.map .writeByte) = some (.writing (n + bytes.length)) := by
  induction bytes generalizing n with
  | nil => rfl
  | cons b bytes ih =>
    simp only [List.map_cons, portRun, portStep, ih, List.length_cons]
    congr 2
    omega

/-- The calls of a bus write of at most 64 data bytes are one whole transaction (R24, R41). -/
theorem portRun_writeCalls (device : BitVec 7) (addr : Byte) {bytes : List Byte} (status : TxnStatus)
    (h : bytes.length ≤ 64) : portRun device .idle (writeCalls device addr bytes status) = some .idle := by
  have hcount : 1 ≤ 1 + bytes.length ∧ 1 + bytes.length ≤ 65 := by omega
  simp [writeCalls, portRun, portStep, portRun_append, portRun_writeBytes, hcount]

theorem portRun_readCalls (device : BitVec 7) (addr b : Byte) :
    portRun device .idle (readCalls device addr b) = some .idle := by
  simp [readCalls, portRun, portStep]

theorem portRun_readFaultCalls (device : BitVec 7) (addr : Byte) :
    portRun device .idle (readFaultCalls device addr) = some .idle := by
  simp [readFaultCalls, portRun, portStep]

/-- A command's bus writes carry at most the 64 bytes of `BUF` (R24). -/
theorem length_le_of_writesOf {i : Instr} {addr : Byte} {bytes : List Byte} (hlegal : ¬ rejectedArg i)
    (hw : writesOf i addr bytes) : bytes.length ≤ 64 := by
  cases i with
  | sett ch on off => obtain ⟨-, rfl⟩ := hw; simp
  | setd ch v => obtain ⟨-, rfl⟩ := hw; simp
  | seta values =>
    obtain ⟨-, overlap, rfl⟩ := hw
    have hcount : values.length ≤ 16 := Nat.le_of_not_lt hlegal
    rw [length_packPairs, length_walk]
    omega
  | init | setf hz => rcases hw with ⟨-, b, rfl⟩ | ⟨-, f, rfl⟩ <;> simp
  | setm t => obtain ⟨-, m, rfl⟩ := hw; simp

/-- Whole transactions are added to whole transactions, and each leaves the port idle (R41, R42, R54). -/
theorem transactionsWhole_keptByParts : KeptByParts fun s => s.callsWhole ∧ s.idle where
  prepare i s _ hs := by
    simpa only [State.callsWhole, State.idle, prepare_straps, prepare_calls, prepare_inFlight, prepare_pointer] using hs
  write i addr bytes s hlegal hw hs := by
    obtain ⟨hcalls, -⟩ := hs
    rw [memWrite_eq]
    exact ⟨portRun_idle_append hcalls (portRun_writeCalls _ _ _ (length_le_of_writesOf hlegal hw)), rfl, rfl⟩
  read addr s hs := by
    obtain ⟨hcalls, -⟩ := hs
    cases hstatus : nextStatus s with
    | ok =>
      rw [memRead_ok addr s hstatus]
      exact ⟨portRun_idle_append hcalls (portRun_readCalls _ _ _), rfl, rfl⟩
    | fault =>
      rw [memRead_fault addr s hstatus]
      exact ⟨portRun_idle_append hcalls (portRun_readFaultCalls _ _), rfl, rfl⟩
  finish _ _ _ hs := hs

/-- Settles O57: every bus access of a command is a whole transaction. -/
theorem stepKeepsTransactionsWhole : Obligations.StepKeepsTransactionsWhole := by
  unfold Obligations.StepKeepsTransactionsWhole
  intro s t hcalls hidle hstep
  exact transactionsWhole_keptByParts.step hstep ⟨hcalls, hidle⟩

/-! ### The allocator's working registers -/

/-- A dimmed duty value is in 1 to 4094 (R92). -/
theorem toNat_of_classify_dimmed {v : Word} (h : classify v = .dimmed) : 1 ≤ v.toNat ∧ v.toNat ≤ 4094 := by
  unfold classify dutyFull at h
  split at h
  · cases h
  · split at h
    · cases h
    · omega

theorem countDimmed_le_length (vs : List Word) : countDimmed vs ≤ vs.length := by
  induction vs with
  | nil => exact Nat.le_refl 0
  | cons v vs ih => cases h : classify v <;> simp only [countDimmed, h, List.length_cons] <;> omega

/-- Each dimmed channel adds 1 to 4094 ticks to the sum (R92, R121). -/
theorem sumDimmed_bounds (vs : List Word) : countDimmed vs ≤ sumDimmed vs ∧ sumDimmed vs ≤ 4094 * countDimmed vs := by
  induction vs with
  | nil => exact ⟨Nat.le_refl 0, Nat.le_refl 0⟩
  | cons v vs ih =>
    cases h : classify v with
    | dimmed =>
      have hv := toNat_of_classify_dimmed h
      simp only [countDimmed, sumDimmed, h]
      omega
    | off | on => simpa only [countDimmed, sumDimmed, h] using ih

/-- The running `offset` at the end of a walk, in closed form (R123, R127). -/
theorem walk_offset (overlap offset : Int) (vs : List Word) :
    (walk overlap offset vs).2 = offset + 4096 * countDimmed vs + sumDimmed vs - countDimmed vs * overlap := by
  induction vs generalizing offset with
  | nil => simp [walk, countDimmed, sumDimmed]
  | cons v vs ih =>
    cases h : classify v with
    | dimmed =>
      simp only [walk, countDimmed, sumDimmed, h, ih, advance, periodTicks]
      push_cast
      ring
    | off | on => simp only [walk, countDimmed, sumDimmed, h, ih]

section Overlap
variable {n T : Nat}

theorem overlapOf_eq_ediv (n T : Nat) : overlapOf n T = ((T : Int) - 4095) / n :=
  Int.fdiv_eq_ediv_of_nonneg _ (Int.natCast_nonneg n)

/-- `overlap` is in the range of R23 for at most 16 dimmed channels of 1 to 4094 ticks each (R122). -/
theorem overlapOf_range (hpos : 0 < n) (hn : n ≤ 16) (hlow : n ≤ T) (hhigh : T ≤ 4094 * n) :
    -4094 ≤ overlapOf n T ∧ overlapOf n T ≤ 3838 := by
  have hpos' : (0 : Int) < n := by omega
  rw [overlapOf_eq_ediv]
  constructor
  · rw [Int.le_ediv_iff_mul_le hpos']
    omega
  · exact Int.le_of_lt_add_one (Int.ediv_lt_of_lt_mul hpos' (by omega))

/-- The dimmed channels' overlaps take back the sum of their ticks less 4095, rounded down (R122). -/
theorem mul_overlapOf_bounds (hpos : 0 < n) :
    n * overlapOf n T ≤ (T : Int) - 4095 ∧ (T : Int) - 4095 < n * overlapOf n T + n := by
  have hpos' : (0 : Int) < n := by omega
  rw [overlapOf_eq_ediv]
  exact ⟨Int.mul_ediv_self_le hpos'.ne', Int.lt_mul_ediv_self_add hpos'⟩

end Overlap

/-- SETA leaves the working registers in the ranges of R23, whatever they were outside `overlap`, which it keeps where
no channel is dimmed (R121 to R123, log 18). -/
theorem workingInRange_allocate {values : List Word} {s : State} (hcount : values.length ≤ 16)
    (hlow : -4094 ≤ s.overlap) (hhigh : s.overlap ≤ 3838) : (allocate values s).workingInRange := by
  have hn : countDimmed values ≤ 16 := (countDimmed_le_length values).trans hcount
  obtain ⟨hmin, hmax⟩ := sumDimmed_bounds values
  rw [allocate_eq values s hcount]
  simp only [State.workingInRange, walk_offset, overlapAfter]
  by_cases hzero : countDimmed values = 0
  · simp only [hzero, if_true] at hmin hmax ⊢
    omega
  · have hpos : 0 < countDimmed values := Nat.pos_of_ne_zero hzero
    obtain ⟨hlow', hhigh'⟩ := overlapOf_range hpos hn hmin hmax
    obtain ⟨hbelow, habove⟩ := mul_overlapOf_bounds (T := sumDimmed values) hpos
    simp only [hzero, if_false]
    omega

theorem workingInRange_keptByParts : KeptByParts State.workingInRange where
  prepare i s hlegal hs := by
    cases i with
    | seta values =>
      obtain ⟨-, -, hlow, hhigh, -⟩ := hs
      exact workingInRange_allocate (Nat.le_of_not_lt hlegal) hlow hhigh
    | sett _ _ _ | setd _ _ | init | setf _ | setm _ => exact hs
  write i addr bytes s _ _ hs := by rw [memWrite_eq]; exact hs
  read addr s hs := by
    cases hstatus : nextStatus s with
    | ok => rw [memRead_ok addr s hstatus]; exact hs
    | fault => rw [memRead_fault addr s hstatus]; exact hs
  finish _ _ _ hs := hs

/-- Settles O56: only the allocator changes the working registers, and its closed forms stay in range. -/
theorem stepKeepsWorkingRegistersInRange : Obligations.StepKeepsWorkingRegistersInRange := by
  unfold Obligations.StepKeepsWorkingRegistersInRange
  intro s t hs hstep
  exact workingInRange_keptByParts.step hstep hs

end Sys2Proof.Machine
end

section
/-! Proofs of the state family, part 3: the stream index, the PRESCALER write, and the channel outputs that SETD and SETA
leave. -/

namespace Sys2Proof.Machine

/-! ### The stream index -/

theorem memWrite_pc (addr : Byte) (bytes : List Byte) (s : State) : (memWrite addr bytes s).2.pc = s.pc := by
  rw [memWrite_eq]

theorem memRead_pc (addr : Byte) (s : State) : (memRead addr s).2.pc = s.pc := by
  cases h : nextStatus s with
  | ok => rw [memRead_ok addr s h]
  | fault => rw [memRead_fault addr s h]

/-- Bus accesses leave the stream index where it is (R25). -/
theorem Issued.pc_eq {allowed : Byte → List Byte → Prop} {readable : Byte → Prop} {s : State}
    {r : TxnStatus × State} (h : Issued allowed readable s r) : r.2.pc = s.pc :=
  h.keeps (P := fun t => t.pc = s.pc) (fun t addr bytes _ ht => (memWrite_pc addr bytes t).trans ht)
    (fun t addr _ ht => (memRead_pc addr t).trans ht) rfl

theorem exec_pc {i : Instr} {s t : State} (h : exec i s = .next t) : t.pc = s.pc + i.length := by
  rcases exec_cases i s with ⟨-, heq⟩ | ⟨-, r, heq, hissued⟩
  · rw [heq] at h
    obtain rfl := Host.Outcome.next.inj h
    rfl
  · rw [heq, conclude_eq_finish] at h
    obtain rfl := Host.Outcome.next.inj h
    rw [finish_pc, hissued.pc_eq, prepare_pc]

theorem length_encode (i : Instr) : (encode i).length = i.length := by
  cases i with
  | seta values => exact Nat.add_comm _ _
  | sett _ _ _ | setd _ _ | init | setf _ | setm _ => rfl

/-- Settles O12: a command ends in `finish` with its own length, and nothing before moves `pc`. -/
theorem everyCommandAdvancesPcByItsLength : Obligations.EveryCommandAdvancesPcByItsLength := by
  unfold Obligations.EveryCommandAdvancesPcByItsLength
  intro i s t hexec
  exact ⟨exec_pc hexec, length_encode i⟩

/-! ### The PRESCALER write -/

/-- When the chip is sure to take a PRESCALER write (R196, log 13). -/
theorem prescalerMayIgnore_eq_false_iff (needsSleep : Bool) (m : Memory) :
    prescalerMayIgnore needsSleep 0xFE m = false ↔ needsSleep = false ∨ Memory.asleep m = true := by
  cases needsSleep <;> simp [prescalerMayIgnore, addrPrescaler]

/-- What is known after a write of one byte to PRESCALER (R50, R52, R196). -/
theorem read_chipWrite_prescaler (needsSleep : Bool) (status : TxnStatus) (b : Byte) (m : Memory) (a : Nat) :
    Memory.read (chipWrite needsSleep status 0xFE [b] m) a =
      if a = 0xFE then
        if status = .ok ∧ (needsSleep = false ∨ Memory.asleep m = true) then some b else none
      else Memory.read m a := by
  simp only [← prescalerMayIgnore_eq_false_iff]
  cases status with
  | fault => simp [chipWrite, Memory.forgetBlock, Memory.read_forget]
  | ok =>
    cases h : prescalerMayIgnore needsSleep 0xFE m with
    | true => simp [chipWrite, h, Memory.forgetBlock, Memory.read_forget]
    | false => simp [chipWrite, h, Memory.writeBlock, Memory.read_write]

/-- Settles O18: the register image after the bus write is that of `chipWrite` at PRESCALER. -/
theorem prescalerWriteNeedsSleepWhereTheChipDoes : Obligations.PrescalerWriteNeedsSleepWhereTheChipDoes := by
  unfold Obligations.PrescalerWriteNeedsSleepWhereTheChipDoes
  intro b s
  exact ⟨_, memWrite_eq _ _ _, read_chipWrite_prescaler _ _ b s.reg⟩

/-! ### What a pair of timing values says of the output -/

theorem forced_eq_msb (v : BitVec 13) : forced v = v.msb := (BitVec.msb_eq_getLsbD_last v).symm

theorem forced_eq_true {v : BitVec 13} (h : 4096 ≤ v.toNat) : forced v = true :=
  (forced_eq_msb v).trans (BitVec.msb_eq_true_iff_two_mul_ge.mpr (by omega))

theorem forced_eq_false {v : BitVec 13} (h : v.toNat < 4096) : forced v = false :=
  (forced_eq_msb v).trans (BitVec.msb_eq_false_iff_two_mul_lt.mpr (by omega))

theorem outputOf_alwaysOn {on off : BitVec 13} (hon : 4096 ≤ on.toNat) (hoff : off.toNat < 4096) :
    outputOf on off = .alwaysOn := by
  simp only [outputOf, forced_eq_true hon, forced_eq_false hoff]

theorem outputOf_alwaysOff {on off : BitVec 13} (hon : on.toNat < 4096) (hoff : 4096 ≤ off.toNat) :
    outputOf on off = .alwaysOff := by
  simp only [outputOf, forced_eq_false hon, forced_eq_true hoff]

theorem outputOf_bothForced {on off : BitVec 13} (hon : 4096 ≤ on.toNat) (hoff : 4096 ≤ off.toNat) :
    outputOf on off = .notGiven := by
  simp only [outputOf, forced_eq_true hon, forced_eq_true hoff]

theorem outputOf_self {v : BitVec 13} (hv : v.toNat < 4096) : outputOf v v = .notGiven := by
  simp only [outputOf, forced_eq_false hv, if_true]

/-- Without a force flag the output is active from tick ON for the ticks from ON to OFF around the period (R34). -/
theorem outputOf_window {on off : BitVec 13} (hon : on.toNat < 4096) (hoff : off.toNat < 4096) (hne : on ≠ off) :
    outputOf on off = .window on.toNat (((off.toNat : Int) - on.toNat) % 4096).toNat := by
  simp only [outputOf, forced_eq_false hon, forced_eq_false hoff, hne, if_false, periodTicks]
  congr 1
  omega

/-- Settles O6: one lemma for each of the five cases of the force flags. -/
theorem outputOfPairFollowsForceFlags : Obligations.OutputOfPairFollowsForceFlags := by
  unfold Obligations.OutputOfPairFollowsForceFlags
  intro on off
  refine ⟨outputOf_alwaysOn, outputOf_alwaysOff, outputOf_bothForced, ?_, outputOf_window⟩
  rintro hon - rfl
  exact outputOf_self hon

/-! ### The timing values a block write leaves -/

/-- The 13 bits that the chip keeps of a timing word (R44, R90). -/
def timingOf (v : Word) : BitVec 13 := v.setWidth 13

theorem timingValue_pack13 (v : Word) : timingValue (pack13 v).1 (pack13 v).2 = timingOf v := by
  apply BitVec.eq_of_getLsbD_eq
  intro k hk
  simp only [timingValue, pack13, timingOf, BitVec.getLsbD_append, BitVec.getLsbD_extractLsb', BitVec.getLsbD_setWidth]
  by_cases hlow : k < 8
  · simp [hlow, hk]
  · have hrest : k - 8 < 5 := by omega
    have hback : 8 + (k - 8) = k := by omega
    simp [hlow, hk, hrest, hback]

theorem timingOf_toNat (v : Word) : (timingOf v).toNat = v.toNat % 8192 := BitVec.toNat_setWidth 13 v

/-- The place of a byte in a payload is its pair and its place in the pair (R125). -/
theorem getElem?_packPairs (ps : List Pair) (k : Nat) {j : Nat} (hj : j < 4) :
    (packPairs ps)[4 * k + j]? = (ps[k]?).bind fun p => (pairBytes p)[j]? := by
  induction ps generalizing k with
  | nil => rfl
  | cons p ps ih =>
    have hcons : packPairs (p :: ps) = pairBytes p ++ packPairs ps := List.flatMap_cons
    rw [hcons]
    cases k with
    | zero => rw [List.getElem?_append_left (by simpa using hj)]; simp
    | succ k =>
      rw [List.getElem?_append_right (by simp; omega), length_pairBytes,
        show 4 * (k + 1) + j - 4 = 4 * k + j by omega, ih, List.getElem?_cons_succ]

/-- A register of a channel after a block write of pairs from channel `first` on (R50, R91). -/
theorem read_writeBlock_packPairs {first ch j : Nat} (ps : List Pair) (m : Memory) (hch : ch ≤ 15)
    (hfirst : first ≤ 15) (hj : j < 4) :
    Memory.read (Memory.writeBlock (chanBase first).toNat (packPairs ps) m) ((chanBase ch).toNat + j) =
      if first ≤ ch ∧ ch < first + ps.length then (ps[ch - first]?).bind fun p => (pairBytes p)[j]?
      else Memory.read m ((chanBase ch).toNat + j) := by
  rw [Memory.read_writeBlock, chanBase_toNat hfirst, chanBase_toNat hch, length_packPairs]
  by_cases hin : first ≤ ch ∧ ch < first + ps.length
  · rw [if_pos (by omega), if_pos hin, ← getElem?_packPairs ps _ hj]
    congr 1
    omega
  · rw [if_neg (by omega), if_neg hin]

/-- A channel inside a block write of pairs gets its pair's timing values (R44, R50, R94, R125). -/
theorem channelPair_writeBlock_inside {first ch : Nat} {ps : List Pair} {p : Pair} (m : Memory) (hch : ch ≤ 15)
    (hle : first ≤ ch) (hp : ps[ch - first]? = some p) :
    channelPair (Memory.writeBlock (chanBase first).toNat (packPairs ps) m) ch = some (timingOf p.on, timingOf p.off) := by
  have hlt : ch - first < ps.length := (List.getElem?_eq_some_iff.mp hp).1
  have hread : ∀ j, j < 4 → Memory.read (Memory.writeBlock (chanBase first).toNat (packPairs ps) m)
      ((chanBase ch).toNat + j) = (pairBytes p)[j]? := fun j hj => by
    rw [read_writeBlock_packPairs ps m hch (by omega) hj, if_pos (by omega), hp, Option.bind_some]
  simp only [channelPair, hread 1 (by omega), hread 2 (by omega), hread 3 (by omega), show
    Memory.read _ (chanBase ch).toNat = _ from hread 0 (by omega)]
  simp [pairBytes, timingValue_pack13]

/-- A channel outside a block write of pairs keeps its timing values (R50). -/
theorem channelPair_writeBlock_outside {first ch : Nat} (ps : List Pair) (m : Memory) (hch : ch ≤ 15)
    (hfirst : first ≤ 15) (hout : ¬ (first ≤ ch ∧ ch < first + ps.length)) :
    channelPair (Memory.writeBlock (chanBase first).toNat (packPairs ps) m) ch = channelPair m ch := by
  have hread : ∀ j, j < 4 → Memory.read (Memory.writeBlock (chanBase first).toNat (packPairs ps) m)
      ((chanBase ch).toNat + j) = Memory.read m ((chanBase ch).toNat + j) := fun j hj => by
    rw [read_writeBlock_packPairs ps m hch hfirst hj, if_neg hout]
  simp only [channelPair, hread 1 (by omega), hread 2 (by omega), hread 3 (by omega), show
    Memory.read _ (chanBase ch).toNat = _ from hread 0 (by omega)]
  rfl

/-- A successful write away from PRESCALER while AUTO-INCREMENT is known to be 1 stores its bytes (R50). -/
theorem chipWrite_stores {needsSleep : Bool} {addr : Nat} (data : List Byte) {m : Memory} (haddr : addr ≠ 0xFE)
    (hinc : Memory.autoIncrement m = true) : chipWrite needsSleep .ok addr data m = Memory.writeBlock addr data m := by
  simp [chipWrite, prescalerMayIgnore, addrPrescaler, haddr, hinc]

/-! ### The output of a pair that SETD or SETA writes -/

/-- The output that the registers ask for once they hold a pair (R33, R34). -/
def pairOutput (p : Pair) : ChannelOutput := outputOf (timingOf p.on) (timingOf p.off)

theorem pairOutput_pairOff : pairOutput pairOff = .alwaysOff := outputOf_alwaysOff (by decide) (by decide)

theorem pairOutput_pairOn : pairOutput pairOn = .alwaysOn := outputOf_alwaysOn (by decide) (by decide)

/-- A pair without force flags whose OFF is `d` ticks after its ON, around the period (R34, R126). -/
theorem pairOutput_window {p : Pair} {d : Nat} (hon : p.on.toNat < 4096) (hpos : 1 ≤ d) (hd : d < 4096)
    (hoff : p.off.toNat = (p.on.toNat + d) % 4096) : pairOutput p = .window p.on.toNat d := by
  have hon' : (timingOf p.on).toNat = p.on.toNat := by rw [timingOf_toNat]; omega
  have hoff' : (timingOf p.off).toNat = p.off.toNat := by rw [timingOf_toNat]; omega
  have hne : timingOf p.on ≠ timingOf p.off := fun h => by
    have := congrArg BitVec.toNat h
    omega
  rw [pairOutput, outputOf_window (by omega) (by omega) hne, hon', hoff']
  congr 1
  omega

theorem tickOf_toNat (x : Int) : ((tickOf x).toNat : Int) = x % 4096 := by
  simp only [tickOf, periodTicks, BitVec.toNat_ofNat]
  omega

/-- A dimmed channel is active for exactly its value, wherever its turn comes (R126). -/
theorem pairOutput_dimmedPair (offset : Int) {v : Word} (hv : classify v = .dimmed) :
    pairOutput (dimmedPair offset v) = .window (tickOf offset).toNat v.toNat := by
  have hrange := toNat_of_classify_dimmed hv
  have hon := tickOf_toNat offset
  have hoff := tickOf_toNat (offset + v.toNat)
  exact pairOutput_window (p := dimmedPair offset v) (by simp only [dimmedPair]; omega) (by omega) (by omega)
    (by simp only [dimmedPair]; omega)

theorem classify_off {v : Word} (h : v.toNat = 0) : classify v = .off := by simp [classify, h]

theorem classify_on {v : Word} (h : 4095 ≤ v.toNat) : classify v = .on := by
  rw [classify, if_neg (by omega), if_pos (by simpa [dutyFull] using h)]

theorem classify_dimmed {v : Word} (hlow : 1 ≤ v.toNat) (hhigh : v.toNat ≤ 4094) : classify v = .dimmed := by
  rw [classify, if_neg (by omega), if_neg (by simp only [dutyFull]; omega)]

/-- The single-channel policy asks for the output that the duty value names (R34, R95). -/
theorem pairOutput_dutyPair (v : Word) :
    pairOutput (dutyPair v) =
      if v.toNat = 0 then .alwaysOff else if 4095 ≤ v.toNat then .alwaysOn else .window 0 v.toNat := by
  by_cases hzero : v.toNat = 0
  · rw [if_pos hzero, dutyPair, classify_off hzero]
    exact pairOutput_pairOff
  · rw [if_neg hzero]
    by_cases hfull : 4095 ≤ v.toNat
    · rw [if_pos hfull, dutyPair, classify_on hfull]
      exact pairOutput_pairOn
    · rw [if_neg hfull, dutyPair, classify_dimmed (by omega) (by omega)]
      exact pairOutput_window (p := { on := 0, off := v }) (by simp) (by omega) (by omega) (by simp; omega)

/-- The pair at a place of a walk: the sentinel of a saturated value, or a dimmed pair at some offset (R123, R124). -/
theorem walk_pair {overlap offset : Int} {values : List Word} {ch : Nat} {v : Word} (hv : values[ch]? = some v) :
    ∃ x, (walk overlap offset values).1[ch]? = some
      (match classify v with
        | .off => pairOff
        | .on => pairOn
        | .dimmed => dimmedPair x v) := by
  induction values generalizing offset ch with
  | nil => cases hv
  | cons w ws ih =>
    cases ch with
    | zero =>
      obtain rfl : w = v := by simpa using hv
      refine ⟨offset, ?_⟩
      cases h : classify w <;> simp [walk, h]
    | succ ch =>
      have hv' : ws[ch]? = some v := by simpa using hv
      cases h : classify w <;> simpa [walk, h] using ih hv'

/-! ### The outputs after SETD and SETA -/

theorem channelOutput_writeBlock_inside {first ch : Nat} {ps : List Pair} {p : Pair} (m : Memory) (hch : ch ≤ 15)
    (hle : first ≤ ch) (hp : ps[ch - first]? = some p) :
    channelOutput (Memory.writeBlock (chanBase first).toNat (packPairs ps) m) ch = pairOutput p := by
  simp only [channelOutput, channelPair_writeBlock_inside m hch hle hp, pairOutput]

theorem channelOutput_writeBlock_outside {first ch : Nat} (ps : List Pair) (m : Memory) (hch : ch ≤ 15)
    (hfirst : first ≤ 15) (hout : ¬ (first ≤ ch ∧ ch < first + ps.length)) :
    channelOutput (Memory.writeBlock (chanBase first).toNat (packPairs ps) m) ch = channelOutput m ch := by
  simp only [channelOutput, channelPair_writeBlock_outside ps m hch hfirst hout]

/-- A command whose argument is out of range raises InvalidArgument (R161). -/
theorem exec_of_rejectedArg {i : Instr} (h : rejectedArg i) (s : State) :
    exec i s = .next (raiseException .invalidArgument i.length s) := by
  rcases exec_cases i s with ⟨-, heq⟩ | ⟨hlegal, -⟩
  · exact heq
  · exact absurd h hlegal

theorem exec_sett_of_le {ch : Byte} (h : ch.toNat ≤ 15) (on off : Word) (s : State) :
    exec (.sett ch on off) s = .next (conclude 3 (writeChannel ch { on := on, off := off } s)) :=
  if_neg (Nat.not_lt.mpr h)

theorem exec_setd_of_le {ch : Byte} (h : ch.toNat ≤ 15) (v : Word) (s : State) :
    exec (.setd ch v) s = .next (conclude 2 (writeChannel ch (dutyPair v) s)) :=
  if_neg (Nat.not_lt.mpr h)

theorem exec_seta_of_le {values : List Word} (h : values.length ≤ 16) (s : State) :
    exec (.seta values) s = .next (conclude (1 + values.length) (blockWrite values.length (allocate values s))) :=
  if_neg (Nat.not_lt.mpr h)

/-- The register image after a successful SETD (R50, R111). -/
theorem exec_setd_reg {ch : Byte} {v : Word} {s : State} (hch : ch.toNat ≤ 15) (hok : nextStatus s = .ok)
    (hinc : Memory.autoIncrement s.reg = true) :
    ∃ t, exec (.setd ch v) s = .next t ∧
      t.reg = Memory.writeBlock (chanBase ch.toNat).toNat (packPairs [dutyPair v]) s.reg := by
  have hbase := chanBase_toNat hch
  refine ⟨_, exec_setd_of_le hch v s, ?_⟩
  rw [writeChannel_eq, conclude_eq, hok, ← pairBytes_eq_packPairs]
  exact chipWrite_stores _ (by omega) hinc

/-- Settles O24: SETD stores the pair of its duty value in the channel's own registers. -/
theorem setdGivesTheRequestedOutput : Obligations.SetdGivesTheRequestedOutput := by
  unfold Obligations.SetdGivesTheRequestedOutput
  intro ch v s hch hok hinc
  obtain ⟨t, hexec, hreg⟩ := exec_setd_reg (v := v) hch hok hinc
  refine ⟨t, hexec, ?_, fun other hother hne => ?_⟩ <;> rw [hreg]
  · rw [channelOutput_writeBlock_inside s.reg hch (Nat.le_refl _) (p := dutyPair v) (by simp), pairOutput_dutyPair]
  · exact channelOutput_writeBlock_outside _ _ hother hch (by simp only [List.length_singleton]; omega)

/-- The register image after a successful SETA of at least one value (R50, R120, R125). -/
theorem exec_seta_reg {values : List Word} {s : State} (hcount : values.length ≤ 16) (hpos : 0 < values.length)
    (hok : nextStatus s = .ok) (hinc : Memory.autoIncrement s.reg = true) :
    ∃ t, exec (.seta values) s = .next t ∧ t.reg = Memory.writeBlock (chanBase 0).toNat
      (packPairs (walk (overlapAfter values s.overlap) 0 values).1) s.reg := by
  refine ⟨_, exec_seta_of_le hcount s, ?_⟩
  rw [blockWrite_allocate values s hcount (by omega), conclude_eq, hok]
  exact chipWrite_stores _ (by decide) hinc

/-- Settles O35: SETA stores the pairs of its walk from channel 0 on, and each pair asks for its value's output. -/
theorem setaGivesTheRequestedOutputs : Obligations.SetaGivesTheRequestedOutputs := by
  unfold Obligations.SetaGivesTheRequestedOutputs
  intro values s hcount hpos hok hinc
  obtain ⟨t, hexec, hreg⟩ := exec_seta_reg hcount hpos hok hinc
  refine ⟨t, hexec, fun ch v hv => ?_, fun ch hout hch => ?_⟩ <;> rw [hreg]
  · have hch : ch < values.length := (List.getElem?_eq_some_iff.mp hv).1
    obtain ⟨x, hpair⟩ := walk_pair (overlap := overlapAfter values s.overlap) (offset := 0) hv
    rw [channelOutput_writeBlock_inside s.reg (by omega) (Nat.zero_le ch) hpair]
    refine ⟨fun hzero => ?_, fun hfull => ?_, fun hlow hhigh => ⟨(tickOf x).toNat, ?_, ?_⟩⟩
    · rw [classify_off hzero]
      exact pairOutput_pairOff
    · rw [classify_on hfull]
      exact pairOutput_pairOn
    · have := tickOf_toNat x
      omega
    · rw [classify_dimmed hlow hhigh]
      exact pairOutput_dimmedPair x (classify_dimmed hlow hhigh)
  · exact channelOutput_writeBlock_outside _ _ hch (Nat.zero_le 15) (by rw [length_walk]; omega)

end Sys2Proof.Machine
end

section
/-! Proofs of the state family, part 4: two machines with one chip and one transport run a command in lockstep, whatever
else they hold; and the invariants at reset. -/

namespace Sys2Proof.Machine

/-! ### Two machines side by side -/

/-- The parameters, the chip's registers and the transport's answers to come are the same in two machines (R20). -/
structure SameOutside (s u : State) : Prop where
  straps : u.straps = s.straps
  reg : u.reg = s.reg
  statusIn : u.statusIn = s.statusIn
  byteIn : u.byteIn = s.byteIn
  statusDraws : u.statusDraws = s.statusDraws
  byteDraws : u.byteDraws = s.byteDraws

/-- Two machines went on from `s` and `u` with the same new calls, no response yet, and the same outside. -/
structure Lockstep (s u s' u' : State) : Prop where
  outside : SameOutside s' u'
  calls : ∃ cs, s'.calls = s.calls ++ cs ∧ u'.calls = u.calls ++ cs
  responses : s'.responses = s.responses ∧ u'.responses = u.responses

theorem Lockstep.refl {s u : State} (h : SameOutside s u) : Lockstep s u s u :=
  ⟨h, ⟨[], by simp, by simp⟩, rfl, rfl⟩

theorem Lockstep.trans {s u s' u' s'' u'' : State} (h : Lockstep s u s' u') (h' : Lockstep s' u' s'' u'') :
    Lockstep s u s'' u'' := by
  obtain ⟨cs, hs, hu⟩ := h.calls
  obtain ⟨ds, hs', hu'⟩ := h'.calls
  exact ⟨h'.outside, ⟨cs ++ ds, by rw [hs', hs, List.append_assoc], by rw [hu', hu, List.append_assoc]⟩,
    h'.responses.1.trans h.responses.1, h'.responses.2.trans h.responses.2⟩

/-- Two runs of a part of a command gave the same result (a status, or the byte of a read) and went on in lockstep. -/
abbrev SameRun {α : Type} (s u : State) (r q : α × State) : Prop := q.1 = r.1 ∧ Lockstep s u r.2 q.2

theorem SameOutside.nextStatus_eq {s u : State} (h : SameOutside s u) : nextStatus u = nextStatus s := by
  simp only [nextStatus, h.statusIn, h.statusDraws]

theorem SameOutside.byteAt_eq {s u : State} (h : SameOutside s u) (addr : Byte) : byteAt addr u = byteAt addr s := by
  simp only [byteAt, nextByte, h.reg, h.byteIn, h.byteDraws]

theorem sameRun_memWrite {s u : State} (h : SameOutside s u) (addr : Byte) (bytes : List Byte) :
    SameRun s u (memWrite addr bytes s) (memWrite addr bytes u) := by
  simp only [memWrite_eq, h.nextStatus_eq, h.straps, h.reg, h.statusIn, h.statusDraws]
  exact ⟨rfl, ⟨rfl, rfl, rfl, h.byteIn, rfl, h.byteDraws⟩, ⟨_, rfl, rfl⟩, rfl, rfl⟩

theorem sameRun_memRead {s u : State} (h : SameOutside s u) (addr : Byte) :
    SameRun s u (memRead addr s) (memRead addr u) := by
  have hstatus := h.nextStatus_eq
  cases hs : nextStatus s with
  | ok =>
    rw [memRead_ok addr s hs, memRead_ok addr u (hstatus.trans hs)]
    simp only [h.byteAt_eq, h.straps, h.statusIn, h.statusDraws]
    exact ⟨rfl, ⟨rfl, h.reg, rfl, by simp only [byteInAfterRead, h.reg, h.byteIn], rfl,
      by simp only [byteDrawsAfterRead, h.reg, h.byteIn, h.byteDraws]⟩, ⟨_, rfl, rfl⟩, rfl, rfl⟩
  | fault =>
    rw [memRead_fault addr s hs, memRead_fault addr u (hstatus.trans hs)]
    simp only [h.straps, h.reg, h.statusIn, h.statusDraws]
    exact ⟨rfl, ⟨rfl, rfl, rfl, h.byteIn, rfl, h.byteDraws⟩, ⟨_, rfl, rfl⟩, rfl, rfl⟩

/-- Going on after a transaction in lockstep, with a rest that runs in lockstep from the same outside (R162). -/
theorem sameRun_andThen {s u : State} {r q : TxnStatus × State} {k l : State → TxnStatus × State}
    (h : SameRun s u r q) (hk : ∀ s' u', SameOutside s' u' → SameRun s' u' (k s') (l u')) :
    SameRun s u (andThen r k) (andThen q l) := by
  obtain ⟨_, s'⟩ := r
  obtain ⟨status, u'⟩ := q
  obtain ⟨rfl, hstep⟩ := h
  cases status with
  | ok =>
    obtain ⟨hresult, hrest⟩ := hk s' u' hstep.outside
    exact ⟨hresult, hstep.trans hrest⟩
  | fault => exact ⟨rfl, hstep⟩

/-- Going on with the byte of a read in lockstep (R162). -/
theorem sameRun_withByte {s u : State} {r q : Option Byte × State} {k l : Byte → State → TxnStatus × State}
    (h : SameRun s u r q) (hk : ∀ b s' u', SameOutside s' u' → SameRun s' u' (k b s') (l b u')) :
    SameRun s u (withByte r k) (withByte q l) := by
  obtain ⟨_, s'⟩ := r
  obtain ⟨got, u'⟩ := q
  obtain ⟨rfl, hstep⟩ := h
  cases got with
  | some b =>
    obtain ⟨hresult, hrest⟩ := hk b s' u' hstep.outside
    exact ⟨hresult, hstep.trans hrest⟩
  | none => exact ⟨rfl, hstep⟩

theorem sameRun_setFrequency (f : Word) {s u : State} (h : SameOutside s u) :
    SameRun s u (setFrequency f s) (setFrequency f u) := by
  unfold setFrequency
  rw [h.straps]
  split
  · exact sameRun_withByte (sameRun_memRead h _) fun m _ _ h1 =>
      sameRun_andThen (sameRun_memWrite h1 _ _) fun _ _ h2 =>
        sameRun_andThen (sameRun_memWrite h2 _ _) fun _ _ h3 => sameRun_memWrite h3 _ _
  · exact sameRun_memWrite h _ _

/-- The write of a channel puts the pair's bytes on the bus, whatever `BUF` held (R24, R110). -/
theorem sameRun_writeChannel (ch : Byte) (p : Pair) {s u : State} (h : SameOutside s u) :
    SameRun s u (writeChannel ch p s) (writeChannel ch p u) := by
  simp only [writeChannel_eq, h.nextStatus_eq, h.straps, h.reg, h.statusIn, h.statusDraws]
  exact ⟨rfl, ⟨rfl, rfl, rfl, h.byteIn, rfl, h.byteDraws⟩, ⟨_, rfl, rfl⟩, rfl, rfl⟩

/-! ### SETA forgets its working registers -/

/-- With no dimmed channel the walk does not look at `overlap` (R128). -/
theorem walk_of_countDimmed_eq_zero {vs : List Word} (h : countDimmed vs = 0) (overlap overlap' offset : Int) :
    walk overlap offset vs = walk overlap' offset vs := by
  induction vs generalizing offset with
  | nil => rfl
  | cons v vs ih =>
    cases hv : classify v with
    | dimmed => simp [countDimmed, hv] at h
    | off | on =>
      have hrest : countDimmed vs = 0 := by simpa [countDimmed, hv] using h
      simp only [walk, hv, ih hrest]

/-- The `overlap` held before SETA has no part in its pairs (R20, R128). -/
theorem walk_overlapAfter (values : List Word) (before before' : Int) :
    walk (overlapAfter values before) 0 values = walk (overlapAfter values before') 0 values := by
  by_cases hzero : countDimmed values = 0
  · exact walk_of_countDimmed_eq_zero hzero _ _ _
  · simp only [overlapAfter, hzero, if_false]

theorem sameRun_blockWrite_allocate {values : List Word} (hcount : values.length ≤ 16) {s u : State}
    (h : SameOutside s u) :
    SameRun s u (blockWrite values.length (allocate values s)) (blockWrite values.length (allocate values u)) := by
  by_cases hempty : values.length = 0 ∧ s.straps.setAllEmpty = .noTransaction
  · rw [blockWrite_allocate_none values s hcount hempty,
      blockWrite_allocate_none values u hcount (by rwa [h.straps]), allocate_eq values s hcount,
      allocate_eq values u hcount]
    exact ⟨rfl, ⟨h.straps, h.reg, h.statusIn, h.byteIn, h.statusDraws, h.byteDraws⟩, ⟨[], by simp, by simp⟩, rfl, rfl⟩
  · rw [blockWrite_allocate values s hcount hempty, blockWrite_allocate values u hcount (by rwa [h.straps]),
      walk_overlapAfter values u.overlap s.overlap, allocate_eq values s hcount, allocate_eq values u hcount]
    simp only [h.nextStatus_eq, h.straps, h.reg, h.statusIn, h.statusDraws]
    exact ⟨rfl, ⟨rfl, rfl, rfl, h.byteIn, rfl, h.byteDraws⟩, ⟨_, rfl, rfl⟩, rfl, rfl⟩

/-! ### One command on two machines -/

/-- Both machines end a command with the same calls, the same response and the same chip registers (R20). -/
abbrev SameEffects (s u t v : State) : Prop :=
  ∃ r cs, t.responses = s.responses ++ [r] ∧ v.responses = u.responses ++ [r] ∧
    t.calls = s.calls ++ cs ∧ v.calls = u.calls ++ cs ∧ v.reg = t.reg

theorem SameRun.conclude {s u : State} {r q : TxnStatus × State} (h : SameRun s u r q) (length : Nat) :
    SameEffects s u (conclude length r) (conclude length q) := by
  obtain ⟨hstatus, houtside, ⟨cs, hcalls, hcalls'⟩, hresponses, hresponses'⟩ := h
  rw [conclude_eq_finish, conclude_eq_finish, hstatus]
  exact ⟨responseFor r.1, cs, by rw [finish_responses, hresponses], by rw [finish_responses, hresponses'], hcalls, hcalls',
    houtside.reg⟩

theorem SameOutside.reject {s u : State} (h : SameOutside s u) (code : Response) (length : Nat) :
    SameEffects s u (raiseException code length s) (raiseException code length u) :=
  ⟨code, [], rfl, rfl, by simp, by simp, h.reg⟩

theorem exec_sameEffects (i : Instr) {s u : State} (h : SameOutside s u) :
    ∃ t v, exec i s = .next t ∧ exec i u = .next v ∧ SameEffects s u t v := by
  by_cases hrejected : rejectedArg i
  · exact ⟨_, _, exec_of_rejectedArg hrejected s, exec_of_rejectedArg hrejected u, h.reject _ _⟩
  cases i with
  | sett ch on off =>
    have hch : ch.toNat ≤ 15 := Nat.le_of_not_lt hrejected
    exact ⟨_, _, exec_sett_of_le hch on off s, exec_sett_of_le hch on off u, (sameRun_writeChannel ch _ h).conclude _⟩
  | setd ch value =>
    have hch : ch.toNat ≤ 15 := Nat.le_of_not_lt hrejected
    exact ⟨_, _, exec_setd_of_le hch value s, exec_setd_of_le hch value u, (sameRun_writeChannel ch _ h).conclude _⟩
  | seta values =>
    have hcount : values.length ≤ 16 := Nat.le_of_not_lt hrejected
    exact ⟨_, _, exec_seta_of_le hcount s, exec_seta_of_le hcount u,
      (sameRun_blockWrite_allocate hcount h).conclude _⟩
  | init =>
    have hrun : SameRun s u
        (andThen (memWrite addrMode1 [initMode1] s) (setFrequency s.straps.defaultFreqHz))
        (andThen (memWrite addrMode1 [initMode1] u) (setFrequency u.straps.defaultFreqHz)) := by
      rw [h.straps]
      exact sameRun_andThen (sameRun_memWrite h _ _) fun _ _ h1 => sameRun_setFrequency _ h1
    exact ⟨_, _, rfl, rfl, hrun.conclude _⟩
  | setf hz => exact ⟨_, _, rfl, rfl, (sameRun_setFrequency hz h).conclude _⟩
  | setm totemPole =>
    have hrun : SameRun s u
        (withByte (memRead addrMode2 s) fun m s1 => memWrite addrMode2 [withOutputMode totemPole m] s1)
        (withByte (memRead addrMode2 u) fun m u1 => memWrite addrMode2 [withOutputMode totemPole m] u1) :=
      sameRun_withByte (sameRun_memRead h _) fun m _ _ h1 => sameRun_memWrite h1 _ _
    exact ⟨_, _, rfl, rfl, hrun.conclude _⟩

/-- Settles O49: the two machines run the command in lockstep, since no bus access and no payload depends on what the
CTE held. -/
theorem noHiddenState : Obligations.NoHiddenState := by
  unfold Obligations.NoHiddenState
  intro i s u t v hstraps hreg hstatusIn hbyteIn hstatusDraws hbyteDraws ht hv
  obtain ⟨t', v', ht', hv', heffects⟩ :=
    exec_sameEffects i (SameOutside.mk hstraps hreg hstatusIn hbyteIn hstatusDraws hbyteDraws)
  obtain rfl := Host.Outcome.next.inj (ht'.symm.trans ht)
  obtain rfl := Host.Outcome.next.inj (hv'.symm.trans hv)
  exact heffects

/-! ### The invariants at reset -/

/-- What is said of every known register holds at reset, since none is known (R38). -/
theorem reset_cells (Q : Host.Cell → Prop) : ∀ c ∈ State.reset.reg, Q c := by
  rw [State.reset_reg]
  exact List.forall_mem_nil Q

theorem workingInRange_reset : State.reset.workingInRange := by decide

/-- Settles O58: at reset no register is known, no call has been made and the working registers are 0. -/
theorem invariantsHoldAtReset : Obligations.InvariantsHoldAtReset := by
  unfold Obligations.InvariantsHoldAtReset
  exact ⟨List.Pairwise.nil, reset_cells _, reset_cells _, reset_cells _, workingInRange_reset, rfl, rfl, rfl⟩

end Sys2Proof.Machine
end

section
/-! Proofs of the memory family: what one bus write and one bus read do, that no step changes the straps or the stream,
the canonical register image, and the registers each command can touch. -/

namespace Sys2Proof.Machine

/-! ### One bus write and one bus read -/

/-- Taking the status of one transaction uses up one given status, or one free value where none is given (R11). -/
theorem drawsAfter_eq {α : Type} (given : List α) (draws : Nat) :
    drawsAfter given draws = draws + (1 - given.length) := by
  cases given with
  | nil => rfl
  | cons x xs => simp [drawsAfter]

theorem tookStatuses_one {s t : State} (hin : t.statusIn = s.statusIn.tail)
    (hdraws : t.statusDraws = drawsAfter s.statusIn s.statusDraws) (hidle : t.idle) : tookStatuses 1 s t :=
  ⟨hin.trans List.drop_one.symm, hdraws.trans (drawsAfter_eq _ _), hidle⟩

/-- Only a write that starts at PRESCALER can be ignored (R196). -/
theorem prescalerMayIgnore_of_ne {addr : Nat} (haddr : addr ≠ 0xFE) (needsSleep : Bool) (m : Memory) :
    prescalerMayIgnore needsSleep addr m = false := by
  have hne : (addr == addrPrescaler.toNat) = false := by simpa [addrPrescaler] using haddr
  simp [prescalerMayIgnore, hne]

/-- What is known after a write of any bytes that starts away from PRESCALER (R50, R51, R52). -/
theorem read_chipWrite {addr : Nat} (haddr : addr ≠ 0xFE) (needsSleep : Bool) (status : TxnStatus) (data : List Byte)
    (m : Memory) (a : Nat) :
    Memory.read (chipWrite needsSleep status addr data m) a =
      if addr ≤ a ∧ a < addr + data.length then
        if status = .ok ∧ (data.length = 1 ∨ Memory.autoIncrement m = true) then data[a - addr]? else none
      else Memory.read m a := by
  by_cases hin : addr ≤ a ∧ a < addr + data.length
  · have hone : data.length ≤ 1 ↔ data.length = 1 := by omega
    rw [if_pos hin]
    cases status with
    | fault => simp [chipWrite, Memory.read_forgetBlock, hin]
    | ok =>
      simp only [chipWrite, prescalerMayIgnore_of_ne haddr, hone, true_and, Bool.false_eq_true, if_false]
      split
      · rw [Memory.read_writeBlock, if_pos hin]
      · rw [Memory.read_forgetBlock, if_pos hin]
  · rw [if_neg hin]
    exact Memory.read_chipWrite_outside _ _ _ _ _ _ hin

/-- Settles O17: the state after a bus write is that of `memWrite_eq`, and its register image is read by
`read_chipWrite`. -/
theorem busWriteMakesCallsAndStores : Obligations.BusWriteMakesCallsAndStores := by
  unfold Obligations.BusWriteMakesCallsAndStores
  intro addr bytes s
  refine ⟨_, memWrite_eq addr bytes s, rfl, fun haddr a => ?_, tookStatuses_one rfl rfl ⟨rfl, rfl⟩, ⟨rfl, rfl⟩,
    ⟨rfl, rfl⟩, ⟨rfl, rfl, rfl, rfl, rfl⟩, rfl, rfl, rfl⟩
  have hne : addr.toNat ≠ 0xFE := fun h => haddr (BitVec.eq_of_toNat_eq h)
  exact read_chipWrite hne _ _ _ _ a

/-- Settles O19: `memRead_fault` and `memRead_ok` give the two states, and the byte of the second is known or free as
the register is. -/
theorem busReadMakesCallsAndLosesItsRegisterOnAFault : Obligations.BusReadMakesCallsAndLosesItsRegisterOnAFault := by
  unfold Obligations.BusReadMakesCallsAndLosesItsRegisterOnAFault
  intro addr s
  refine ⟨fun hfault => ?_, fun hok => ?_⟩
  · exact ⟨_, memRead_fault addr s hfault, Memory.read_forget _ _, rfl, tookStatuses_one rfl rfl ⟨rfl, rfl⟩, rfl, rfl⟩
  · refine ⟨_, _, memRead_ok addr s hok, rfl, rfl, tookStatuses_one rfl rfl ⟨rfl, rfl⟩, fun known hknown => ?_,
      fun hunknown => ?_⟩
    · simp [byteAt, byteInAfterRead, byteDrawsAfterRead, sameBytes, hknown]
    · simp [byteAt, byteInAfterRead, byteDrawsAfterRead, hunknown]

/-! ### What every step keeps -/

@[simp] theorem prepare_stream (i : Instr) (s : State) : (prepare i s).stream = s.stream := by
  obtain ⟨_, _, _, _, _, _, h⟩ := prepare_eq i s
  rw [h]

theorem sameFixed_memWrite (addr : Byte) (bytes : List Byte) (s : State) : sameFixed s (memWrite addr bytes s).2 := by
  rw [memWrite_eq]
  exact ⟨rfl, rfl⟩

theorem sameFixed_memRead (addr : Byte) (s : State) : sameFixed s (memRead addr s).2 := by
  cases h : nextStatus s with
  | ok => rw [memRead_ok addr s h]; exact ⟨rfl, rfl⟩
  | fault => rw [memRead_fault addr s h]; exact ⟨rfl, rfl⟩

theorem sameFixed_trans {s t u : State} (hst : sameFixed s t) (htu : sameFixed t u) : sameFixed s u :=
  ⟨htu.1.trans hst.1, htu.2.trans hst.2⟩

/-- No part of a step changes straps, parameters or stream (R21, R57). -/
theorem sameFixed_keptByParts (s : State) : KeptByParts (sameFixed s) where
  prepare i t _ ht := sameFixed_trans ht ⟨prepare_straps i t, prepare_stream i t⟩
  write _ addr bytes t _ _ ht := sameFixed_trans ht (sameFixed_memWrite addr bytes t)
  read addr t ht := sameFixed_trans ht (sameFixed_memRead addr t)
  finish _ _ _ ht := ht

/-- Settles O47: no part of a step changes them. -/
theorem streamAndStrapsNeverChange : Obligations.StreamAndStrapsNeverChange := by
  unfold Obligations.StreamAndStrapsNeverChange
  intro s t hstep
  exact (sameFixed_keptByParts s).step hstep ⟨rfl, rfl⟩

/-- A bus write stores or forgets and a bus read at most forgets, each of which keeps the canonical form. -/
theorem memoryCanonical_keptByParts : KeptByParts State.memoryCanonical where
  prepare i s _ hs := by rwa [State.memoryCanonical, prepare_reg]
  write i addr bytes s _ _ hs := by
    rw [memWrite_eq]
    exact Memory.wf_chipWrite _ _ _ _ _ hs
  read addr s hs := by
    rcases reg_memRead addr s with heq | heq <;> rw [State.memoryCanonical, heq]
    · exact hs
    · exact Memory.wf_forget _ _ hs
  finish _ _ _ hs := hs

/-- Settles O52: every part of a step keeps the canonical form. -/
theorem stepKeepsMemoryCanonical : Obligations.StepKeepsMemoryCanonical := by
  unfold Obligations.StepKeepsMemoryCanonical
  intro s t hs hstep
  exact memoryCanonical_keptByParts.step hstep hs

/-! ### The one bus write of a base-set command -/

/-- From `s` to `t` the bytes went to the registers from `addr` on, in one bus write at most. -/
structure WroteOnce (addr : Byte) (bytes : List Byte) (s t : State) : Prop where
  reg : t.reg = chipWrite s.straps.prescalerNeedsSleep (nextStatus s) addr.toNat bytes s.reg
  calls : t.calls = s.calls ∨ t.calls = s.calls ++ writeCalls s.straps.deviceAddr addr bytes (nextStatus s)

/-- Writing no byte and making no call is a write of no byte. -/
theorem WroteOnce.nothing (addr : Byte) {s t : State} (hreg : t.reg = s.reg) (hcalls : t.calls = s.calls) :
    WroteOnce addr [] s t :=
  ⟨by rw [hreg, chipWrite_nil], .inl hcalls⟩

theorem wroteOnce_writeChannel (length : Nat) (ch : Byte) (p : Pair) (s : State) :
    WroteOnce (chanBase ch.toNat) (pairBytes p) s (conclude length (writeChannel ch p s)) := by
  rw [writeChannel_eq, conclude_eq]
  exact ⟨rfl, .inr rfl⟩

/-- The bytes of SETA's block write, whatever the working registers held before (R125, R128). -/
def setaBytes (values : List Word) : List Byte := packPairs (walk (overlapAfter values 0) 0 values).1

theorem length_setaBytes (values : List Word) : (setaBytes values).length = 4 * values.length := by
  rw [setaBytes, length_packPairs, length_walk]

theorem wroteOnce_blockWrite {values : List Word} (hcount : values.length ≤ 16) (s : State) :
    WroteOnce 0x06 (setaBytes values) s
      (conclude (1 + values.length) (blockWrite values.length (allocate values s))) := by
  by_cases hempty : values.length = 0 ∧ s.straps.setAllEmpty = .noTransaction
  · obtain rfl := List.length_eq_zero_iff.mp hempty.1
    rw [blockWrite_allocate_none [] s hcount hempty, conclude_eq, allocate_eq [] s hcount]
    exact .nothing _ rfl rfl
  · rw [blockWrite_allocate values s hcount hempty, conclude_eq, walk_overlapAfter values s.overlap 0,
      allocate_eq values s hcount]
    exact ⟨rfl, .inr rfl⟩

/-- A base-set command writes bytes that its words give to registers 0x06 to 0x45, from whatever state (R49, R113). -/
theorem exec_base {i : Instr} (hbase : Base i) :
    ∃ addr bytes, 0x06 ≤ addr.toNat ∧ addr.toNat + bytes.length ≤ 0x46 ∧
      ∀ s t, exec i s = .next t → WroteOnce addr bytes s t := by
  by_cases hrejected : rejectedArg i
  · refine ⟨0x06, [], by decide, by decide, fun s t ht => ?_⟩
    obtain rfl := Host.Outcome.next.inj ((exec_of_rejectedArg hrejected s).symm.trans ht)
    exact .nothing _ rfl rfl
  cases i with
  | sett ch on off =>
    have hch : ch.toNat ≤ 15 := Nat.le_of_not_lt hrejected
    have haddr := chanBase_toNat hch
    refine ⟨chanBase ch.toNat, pairBytes { on := on, off := off }, by omega, by rw [length_pairBytes]; omega,
      fun s t ht => ?_⟩
    obtain rfl := Host.Outcome.next.inj ((exec_sett_of_le hch on off s).symm.trans ht)
    exact wroteOnce_writeChannel _ _ _ _
  | setd ch value =>
    have hch : ch.toNat ≤ 15 := Nat.le_of_not_lt hrejected
    have haddr := chanBase_toNat hch
    refine ⟨chanBase ch.toNat, pairBytes (dutyPair value), by omega, by rw [length_pairBytes]; omega,
      fun s t ht => ?_⟩
    obtain rfl := Host.Outcome.next.inj ((exec_setd_of_le hch value s).symm.trans ht)
    exact wroteOnce_writeChannel _ _ _ _
  | seta values =>
    have hcount : values.length ≤ 16 := Nat.le_of_not_lt hrejected
    refine ⟨0x06, setaBytes values, by decide, by rw [length_setaBytes]; simp; omega, fun s t ht => ?_⟩
    obtain rfl := Host.Outcome.next.inj ((exec_seta_of_le hcount s).symm.trans ht)
    exact wroteOnce_blockWrite hcount s
  | init | setf _ | setm _ => exact hbase.elim

/-! ### The registers a command touches -/

theorem requestRead_not_mem_writeCalls (device d : BitVec 7) (addr : Byte) (bytes : List Byte) (status : TxnStatus)
    (n : Nat) : .requestRead d n ∉ writeCalls device addr bytes status := by
  simp [writeCalls]

theorem exec_base_frame {i : Instr} {s t : State} (hbase : Base i) (hexec : exec i s = .next t) {a : Nat}
    (ha : ¬ (0x06 ≤ a ∧ a ≤ 0x45)) : Memory.read t.reg a = Memory.read s.reg a := by
  obtain ⟨addr, bytes, hlow, hhigh, hwrote⟩ := exec_base hbase
  rw [(hwrote s t hexec).reg]
  exact Memory.read_chipWrite_outside _ _ _ _ _ _ (by omega)

theorem exec_base_no_read {i : Instr} {s t : State} (hbase : Base i) (hexec : exec i s = .next t) :
    ∃ cs, t.calls = s.calls ++ cs ∧ ∀ d n, .requestRead d n ∉ cs := by
  obtain ⟨addr, bytes, -, -, hwrote⟩ := exec_base hbase
  rcases (hwrote s t hexec).calls with hcalls | hcalls
  · exact ⟨[], by rw [hcalls, List.append_nil], fun _ _ => List.not_mem_nil⟩
  · exact ⟨_, hcalls, fun d n => requestRead_not_mem_writeCalls _ d _ _ _ n⟩

theorem read_memWrite_outside {addr : Byte} {bytes : List Byte} {a : Nat}
    (ha : ¬ (addr.toNat ≤ a ∧ a < addr.toNat + bytes.length)) (s : State) :
    Memory.read (memWrite addr bytes s).2.reg a = Memory.read s.reg a := by
  rw [memWrite_eq]
  exact Memory.read_chipWrite_outside _ _ _ _ _ _ ha

theorem read_memRead_of_ne {addr : Byte} {a : Nat} (ha : a ≠ addr.toNat) (s : State) :
    Memory.read (memRead addr s).2.reg a = Memory.read s.reg a := by
  rcases reg_memRead addr s with heq | heq <;> rw [heq]
  rw [Memory.read_forget, if_neg ha]

/-- A CFG command writes one byte at a time, to a mode register or PRESCALER (R43, R48). -/
theorem writesOf_cfg {i : Instr} (hcfg : ¬ Base i) {addr : Byte} {bytes : List Byte} (hw : writesOf i addr bytes) :
    (addr.toNat = 0x00 ∨ addr.toNat = 0x01 ∨ addr.toNat = 0xFE) ∧ bytes.length = 1 := by
  cases i with
  | sett _ _ _ | setd _ _ | seta _ => exact absurd trivial hcfg
  | init | setf _ =>
    rcases hw with ⟨rfl, m, rfl⟩ | ⟨rfl, f, rfl⟩
    · exact ⟨.inl rfl, rfl⟩
    · exact ⟨.inr (.inr rfl), rfl⟩
  | setm _ =>
    obtain ⟨rfl, m, rfl⟩ := hw
    exact ⟨.inr (.inl rfl), rfl⟩

/-- Only the mode registers are ever read (R43, R48). -/
theorem readsOf_mode {i : Instr} {addr : Byte} (hr : readsOf i addr) : addr.toNat = 0x00 ∨ addr.toNat = 0x01 := by
  cases i with
  | sett _ _ _ | setd _ _ | seta _ => exact hr.elim
  | init | setf _ => exact .inl (congrArg BitVec.toNat hr)
  | setm _ => exact .inr (congrArg BitVec.toNat hr)

theorem exec_cfg_frame {i : Instr} {s t : State} (hcfg : ¬ Base i) (hexec : exec i s = .next t) {a : Nat}
    (h0 : a ≠ 0x00) (h1 : a ≠ 0x01) (hp : a ≠ 0xFE) : Memory.read t.reg a = Memory.read s.reg a := by
  have hwrite : ∀ u addr bytes, writesOf i addr bytes → Memory.read u.reg a = Memory.read s.reg a →
      Memory.read (memWrite addr bytes u).2.reg a = Memory.read s.reg a := fun u addr bytes hw hu => by
    obtain ⟨haddr, hlen⟩ := writesOf_cfg hcfg hw
    exact (read_memWrite_outside (by omega) u).trans hu
  have hread : ∀ u addr, readsOf i addr → Memory.read u.reg a = Memory.read s.reg a →
      Memory.read (memRead addr u).2.reg a = Memory.read s.reg a := fun u addr hr hu => by
    have haddr := readsOf_mode hr
    exact (read_memRead_of_ne (by omega) u).trans hu
  rcases exec_cases i s with ⟨-, heq⟩ | ⟨-, r, heq, hissued⟩
  · obtain rfl := Host.Outcome.next.inj (heq.symm.trans hexec)
    rfl
  · rw [conclude_eq_finish] at heq
    obtain rfl := Host.Outcome.next.inj (heq.symm.trans hexec)
    exact hissued.keeps hwrite hread (by rw [prepare_reg])

/-- Settles O48: the one write of a base-set command stays in the timing registers and is no read; a CFG command's
accesses stay at the mode registers and PRESCALER. -/
theorem commandsTouchOnlyTheirRegisters : Obligations.CommandsTouchOnlyTheirRegisters := by
  unfold Obligations.CommandsTouchOnlyTheirRegisters
  intro i s t hexec
  exact ⟨fun hbase => ⟨fun _ ha => exec_base_frame hbase hexec ha, exec_base_no_read hbase hexec⟩,
    fun hcfg _ h0 h1 hp => exec_cfg_frame hcfg hexec h0 h1 hp⟩

/-! ### A base-set command run twice -/

theorem autoIncrement_congr {m n : Memory} (h : Memory.read m 0x00 = Memory.read n 0x00) :
    Memory.autoIncrement m = Memory.autoIncrement n := by
  have h' : Memory.read m addrMode1.toNat = Memory.read n addrMode1.toNat := h
  simp only [Memory.autoIncrement, Memory.mode1Has, h']

/-- Storing the same bytes again changes no register (R47). -/
theorem read_writeBlock_twice (addr : Nat) (bytes : List Byte) (m : Memory) (a : Nat) :
    Memory.read (Memory.writeBlock addr bytes (Memory.writeBlock addr bytes m)) a =
      Memory.read (Memory.writeBlock addr bytes m) a := by
  simp only [Memory.read_writeBlock]
  split <;> rfl

/-- Settles O51: both runs store the same bytes at the same registers, and the first leaves MODE1 as it was. -/
theorem baseCommandsAreIdempotent : Obligations.BaseCommandsAreIdempotent := by
  unfold Obligations.BaseCommandsAreIdempotent
  intro i s t u hbase hinc hsok htok hst htu a
  obtain ⟨addr, bytes, hlow, hhigh, hwrote⟩ := exec_base hbase
  have haddr : addr.toNat ≠ 0xFE := by omega
  have hinc' : Memory.autoIncrement t.reg = true :=
    (autoIncrement_congr (exec_base_frame hbase hst (by decide))).trans hinc
  have hfirst : t.reg = Memory.writeBlock addr.toNat bytes s.reg := by
    rw [(hwrote s t hst).reg, hsok]
    exact chipWrite_stores _ haddr hinc
  have hsecond : u.reg = Memory.writeBlock addr.toNat bytes t.reg := by
    rw [(hwrote t u htu).reg, htok]
    exact chipWrite_stores _ haddr hinc'
  rw [hsecond, hfirst, read_writeBlock_twice]

end Sys2Proof.Machine
end

section
/-! Proofs of the encoding family: the header word, the decoder's round trips, what an illegal header and a missing
operand word do to a step, and the assembler's words. -/

namespace Sys2Proof.Machine

/-! ### The fields of a header word -/

theorem headerOp_toNat (w : Word) : (headerOp w).toNat = w.toNat / 4096 := by
  simp only [headerOp, BitVec.extractLsb'_toNat, Nat.shiftRight_eq_div_pow]
  omega

theorem headerRsv_toNat (w : Word) : (headerRsv w).toNat = w.toNat / 256 % 16 := by
  simp only [headerRsv, BitVec.extractLsb'_toNat, Nat.shiftRight_eq_div_pow]

theorem headerArg_toNat (w : Word) : (headerArg w).toNat = w.toNat % 256 := by
  simp only [headerArg, BitVec.extractLsb'_toNat, Nat.shiftRight_zero]

/-- The three fields read off a header word, put together again. -/
theorem headerWord_toNat (op : Opcode) (arg : Byte) :
    (headerWord op arg).toNat = 4096 * (opcodeNumber op).toNat + arg.toNat := by
  have hop := headerOp_toNat (headerWord op arg)
  have hrsv := headerRsv_toNat (headerWord op arg)
  have harg := headerArg_toNat (headerWord op arg)
  rw [Laws.headerOp_headerWord] at hop
  rw [Laws.headerRsv_headerWord] at hrsv
  simp only [BitVec.ofNat_eq_ofNat, BitVec.toNat_zero] at hrsv
  rw [Laws.headerArg_headerWord] at harg
  omega

/-- R75: the opcode map and the encoder's numbers are inverse to each other. -/
theorem opcodeOf_eq_some_iff {n : BitVec 4} {op : Opcode} : opcodeOf n = some op ↔ n = opcodeNumber op := by
  constructor
  · revert n op
    decide
  · rintro rfl
    exact Laws.opcodeOf_opcodeNumber op

/-! ### The header words that are read -/

/-- The arguments a header of an opcode may carry (R73, R77 (c) to (e)). -/
def ArgFits (hasCfg : Bool) : Opcode → Byte → Prop
  | .sett, _ => True
  | .setd, _ => True
  | .seta, _ => True
  | .init, arg => hasCfg = true ∧ arg.toNat = 0
  | .setf, arg => hasCfg = true ∧ arg.toNat = 0
  | .setm, arg => hasCfg = true ∧ arg.toNat ≤ 1

theorem argCheck_eq_ok_iff {hasCfg : Bool} {op : Opcode} {arg : Byte} :
    argCheck hasCfg op arg = .ok () ↔ ArgFits hasCfg op arg := by
  cases op with
  | sett | setd | seta => simp [argCheck, ArgFits]
  | init | setf => cases hasCfg <;> simp [argCheck, ArgFits, ← BitVec.toNat_inj]
  | setm => cases hasCfg <;> simp [argCheck, ArgFits]

theorem readHeader_eq_ok_iff_fields {hasCfg : Bool} {w : Word} {op : Opcode} :
    readHeader hasCfg w = .ok op ↔
      opcodeOf (headerOp w) = some op ∧ headerRsv w = 0 ∧ argCheck hasCfg op (headerArg w) = .ok () := by
  constructor
  · intro h
    unfold readHeader at h
    split at h
    · cases h
    · next assigned hassigned =>
      split at h
      · cases h
      · next hrsv =>
        split at h
        · cases h
        · next hcheck =>
          cases h
          exact ⟨hassigned, not_not.mp hrsv, hcheck⟩
  · rintro ⟨hassigned, hrsv, hcheck⟩
    simp only [readHeader, hassigned, hrsv, hcheck, ne_eq, not_true_eq_false, if_false]

/-- The bits above the argument of a header word that is read are the opcode's number and four zeros. -/
theorem readHeader_eq_ok_iff {hasCfg : Bool} {w : Word} {op : Opcode} :
    readHeader hasCfg w = .ok op ↔
      w.toNat / 256 = 16 * (opcodeNumber op).toNat ∧ ArgFits hasCfg op (headerArg w) := by
  rw [readHeader_eq_ok_iff_fields, opcodeOf_eq_some_iff, argCheck_eq_ok_iff, ← and_assoc]
  refine and_congr_left' ?_
  rw [← BitVec.toNat_inj, ← BitVec.toNat_inj, headerOp_toNat, headerRsv_toNat,
    show (0 : BitVec 4).toNat = 0 from rfl]
  have hnumber := (opcodeNumber op).isLt
  omega

theorem eq_headerWord_of_readHeader {hasCfg : Bool} {w : Word} {op : Opcode} (h : readHeader hasCfg w = .ok op) :
    w = headerWord op (headerArg w) := by
  obtain ⟨hhigh, -⟩ := readHeader_eq_ok_iff.mp h
  refine BitVec.eq_of_toNat_eq ?_
  rw [headerWord_toNat, headerArg_toNat]
  omega

theorem readHeader_headerWord {hasCfg : Bool} {op : Opcode} {arg : Byte} (hfit : ArgFits hasCfg op arg) :
    readHeader hasCfg (headerWord op arg) = .ok op := by
  rw [readHeader_eq_ok_iff, Laws.headerArg_headerWord, headerWord_toNat]
  exact ⟨by omega, hfit⟩

/-! ### The opcode map -/

/-- The number of low bits that the mask of a row of R75 leaves free. -/
def freeBits : Opcode → Nat
  | .sett => 8
  | .setd => 8
  | .seta => 8
  | .init => 0
  | .setf => 0
  | .setm => 1

/-- Masking off the low `k` bits is rounding down to a multiple of `2 ^ k`. -/
theorem and_highMask_eq_iff (w m : Word) (k : Nat) :
    w &&& (BitVec.allOnes 16 <<< k) = m ↔ w.toNat / 2 ^ k * 2 ^ k = m.toNat := by
  rw [← BitVec.shiftLeft_ushiftRight, ← BitVec.toNat_inj, BitVec.toNat_shiftLeft, BitVec.toNat_ushiftRight,
    Nat.shiftRight_eq_div_pow, Nat.shiftLeft_eq,
    Nat.mod_eq_of_lt (Nat.lt_of_le_of_lt (Nat.div_mul_le_self _ _) w.isLt)]

/-- A row's match is its opcode's header word with argument 0, and its mask leaves the row's free bits out. -/
theorem readHeader_iff_match (w : Word) (op : Opcode) :
    readHeader true w = .ok op ↔ w &&& (BitVec.allOnes 16 <<< freeBits op) = headerWord op 0 := by
  rw [readHeader_eq_ok_iff, and_highMask_eq_iff, headerWord_toNat, show (0 : Byte).toNat = 0 from rfl]
  cases op with
  | sett | setd | seta =>
    simp only [ArgFits, freeBits, opcodeNumber, BitVec.toNat_ofNat, and_true]
    omega
  | init | setf | setm =>
    simp only [ArgFits, freeBits, opcodeNumber, headerArg_toNat, BitVec.toNat_ofNat, true_and]
    omega

/-- Settles O9: each row's mask is `freeBits` low zeros under ones, and its match is the header word. -/
theorem opcodeMapSelectsByMatchAndMask : Obligations.OpcodeMapSelectsByMatchAndMask := by
  unfold Obligations.OpcodeMapSelectsByMatchAndMask
  intro w
  exact ⟨readHeader_iff_match w .sett, readHeader_iff_match w .setd, readHeader_iff_match w .seta,
    readHeader_iff_match w .init, readHeader_iff_match w .setf, readHeader_iff_match w .setm⟩

/-! ### Decoding an encoding -/

theorem decode_headerWord {hasCfg : Bool} {op : Opcode} {arg : Byte} (hfit : ArgFits hasCfg op arg) (ws : List Word) :
    decode hasCfg (headerWord op arg :: ws) = decodeOperands op arg ws := by
  simp only [decode, readHeader_headerWord hfit, Laws.headerArg_headerWord]

/-- Settles O7: the header word of an encoding is read as its opcode and argument, and the operand words that follow
are the command's operands. -/
theorem decodeOfEncodeGivesCommandBack : Obligations.DecodeOfEncodeGivesCommandBack := by
  unfold Obligations.DecodeOfEncodeGivesCommandBack
  intro hasCfg i rest hwf hpresent
  cases i with
  | sett ch on off => exact decode_headerWord (op := .sett) trivial _
  | setd ch value => exact decode_headerWord (op := .setd) trivial _
  | seta values =>
    have hcount : values.length ≤ 255 := by simpa [Instr.wf] using hwf
    have harg : (BitVec.ofNat 8 values.length).toNat = values.length := by
      rw [BitVec.toNat_ofNat]
      omega
    refine (decode_headerWord (op := .seta) trivial _).trans ?_
    simp [decodeOperands, harg]
  | init => exact decode_headerWord (op := .init) ⟨hpresent, rfl⟩ _
  | setf hz => exact decode_headerWord (op := .setf) ⟨hpresent, rfl⟩ _
  | setm totemPole =>
    cases totemPole with
    | false | true => exact decode_headerWord (op := .setm) ⟨hpresent, by decide⟩ _

/-! ### What the decoder gives -/

/-- The number of operand words after a legal header (R73, R74). -/
def operandCount : Opcode → Byte → Nat
  | .sett, _ => 2
  | .setd, _ => 1
  | .seta, arg => arg.toNat
  | .init, _ => 0
  | .setf, _ => 1
  | .setm, _ => 0

theorem decodeOperands_truncated {op : Opcode} {arg : Byte} {ws : List Word} (h : ws.length < operandCount op arg) :
    decodeOperands op arg ws = .truncated := by
  cases op with
  | sett =>
    match ws, h with
    | [], _ => rfl
    | [_], _ => rfl
  | setd | setf =>
    match ws, h with
    | [], _ => rfl
  | seta => exact if_pos h
  | init | setm => exact absurd h (Nat.not_lt_zero _)

/-- With its operand words there, a legal header gives a command whose encoding is the words read. -/
theorem decodeOperands_command {hasCfg : Bool} {op : Opcode} {arg : Byte} {ws : List Word}
    (hfit : ArgFits hasCfg op arg) (hlen : operandCount op arg ≤ ws.length) :
    ∃ i rest, decodeOperands op arg ws = .command i rest ∧ headerWord op arg :: ws = encode i ++ rest ∧
      i.length = 1 + operandCount op arg ∧ i.wf = true ∧ i.present hasCfg = true := by
  cases op with
  | sett =>
    match ws, hlen with
    | on :: off :: rest, _ => exact ⟨.sett arg on off, rest, rfl, rfl, rfl, rfl, rfl⟩
  | setd =>
    match ws, hlen with
    | value :: rest, _ => exact ⟨.setd arg value, rest, rfl, rfl, rfl, rfl, rfl⟩
  | seta =>
    have hcount : (ws.take arg.toNat).length = arg.toNat := List.length_take_of_le hlen
    refine ⟨.seta (ws.take arg.toNat), ws.drop arg.toNat, if_neg (Nat.not_lt.mpr hlen), ?_, ?_, ?_, rfl⟩
    · simp [encode, hcount]
    · simp only [Instr.length, operandCount, hcount]
    · simp only [Instr.wf, hcount]
      exact decide_eq_true (Nat.le_of_lt_succ arg.isLt)
  | init =>
    obtain ⟨hcfg, harg⟩ := hfit
    obtain rfl : arg = 0 := BitVec.eq_of_toNat_eq harg
    exact ⟨.init, ws, rfl, rfl, rfl, rfl, hcfg⟩
  | setf =>
    obtain ⟨hcfg, harg⟩ := hfit
    obtain rfl : arg = 0 := BitVec.eq_of_toNat_eq harg
    match ws, hlen with
    | hz :: rest, _ => exact ⟨.setf hz, rest, rfl, rfl, rfl, rfl, hcfg⟩
  | setm =>
    obtain ⟨hcfg, harg⟩ := hfit
    have hbit : (if arg.getLsbD 0 then 1 else 0) = arg := by
      obtain rfl | rfl : arg = 0 ∨ arg = 1 := by
        simp only [← BitVec.toNat_inj]
        exact Nat.le_one_iff_eq_zero_or_eq_one.mp harg
      · rfl
      · rfl
    exact ⟨.setm (arg.getLsbD 0), ws, rfl, by simp only [encode, hbit]; rfl, rfl, rfl, hcfg⟩

/-! ### Illegal headers and lengths -/

/-- R77: a header word is an illegal command exactly when it is read as no opcode. -/
theorem not_illegalHeader_iff {hasCfg : Bool} {w : Word} :
    ¬ illegalHeader hasCfg w ↔ ∃ op, readHeader hasCfg w = .ok op := by
  simp only [readHeader_eq_ok_iff]
  constructor
  · intro hlegal
    simp only [illegalHeader, not_or, not_and, Bool.not_eq_false] at hlegal
    obtain ⟨hop, hrsv, hzero, hbit, hcfg⟩ := hlegal
    have hassigned : w.toNat / 4096 = 0x1 ∨ w.toNat / 4096 = 0x2 ∨ w.toNat / 4096 = 0x3 ∨ w.toNat / 4096 = 0x8 ∨
        w.toNat / 4096 = 0x9 ∨ w.toNat / 4096 = 0xA := by omega
    have hhigh : w.toNat / 256 = 16 * (w.toNat / 4096) := by omega
    rcases hassigned with h | h | h | h | h | h
    · exact ⟨.sett, by rw [hhigh, h]; rfl, trivial⟩
    · exact ⟨.setd, by rw [hhigh, h]; rfl, trivial⟩
    · exact ⟨.seta, by rw [hhigh, h]; rfl, trivial⟩
    · exact ⟨.init, by rw [hhigh, h]; rfl, hcfg (by omega), by rw [headerArg_toNat]; omega⟩
    · exact ⟨.setf, by rw [hhigh, h]; rfl, hcfg (by omega), by rw [headerArg_toNat]; omega⟩
    · exact ⟨.setm, by rw [hhigh, h]; rfl, hcfg (by omega), by rw [headerArg_toNat]; omega⟩
  · rintro ⟨op, hhigh, hfit⟩
    cases op with
    | sett | setd | seta =>
      simp only [opcodeNumber, BitVec.toNat_ofNat] at hhigh
      simp only [illegalHeader]
      omega
    | init | setf | setm =>
      obtain ⟨rfl, harg⟩ := hfit
      simp only [opcodeNumber, BitVec.toNat_ofNat] at hhigh
      rw [headerArg_toNat] at harg
      simp only [illegalHeader, Bool.true_eq_false, and_false, or_false]
      omega

theorem illegalHeader_of_readHeader {hasCfg : Bool} {w : Word} {why : IllegalKind}
    (h : readHeader hasCfg w = .error why) : illegalHeader hasCfg w := by
  by_contra hlegal
  obtain ⟨op, hop⟩ := not_illegalHeader_iff.mp hlegal
  rw [hop] at h
  cases h

theorem lengthByRule_of_readHeader {hasCfg : Bool} {w : Word} {op : Opcode} (h : readHeader hasCfg w = .ok op) :
    lengthByRule hasCfg w = 1 + operandCount op (headerArg w) := by
  have hlegal : ¬ illegalHeader hasCfg w := not_illegalHeader_iff.mpr ⟨op, h⟩
  have hop : w.toNat / 4096 = (opcodeNumber op).toNat := by
    obtain ⟨hhigh, -⟩ := readHeader_eq_ok_iff.mp h
    omega
  rw [lengthByRule, if_neg hlegal, hop]
  cases op with
  | seta => rw [operandCount, headerArg_toNat]; rfl
  | sett | setd | init | setf | setm => rfl

theorem lengthByRule_of_illegalHeader {hasCfg : Bool} {w : Word} (h : illegalHeader hasCfg w) :
    lengthByRule hasCfg w = 1 := if_pos h

theorem headerLength_eq_lengthByRule (hasCfg : Bool) (w : Word) : headerLength hasCfg w = lengthByRule hasCfg w := by
  cases h : readHeader hasCfg w with
  | error why =>
    rw [lengthByRule_of_illegalHeader (illegalHeader_of_readHeader h)]
    simp only [headerLength, h]
  | ok op =>
    rw [lengthByRule_of_readHeader h]
    cases op <;> simp only [headerLength, h] <;> rfl

theorem decode_of_readHeader_ok {hasCfg : Bool} {w : Word} {op : Opcode} (h : readHeader hasCfg w = .ok op)
    (rest : List Word) : decode hasCfg (w :: rest) = decodeOperands op (headerArg w) rest := by
  simp only [decode, h]

theorem decode_of_readHeader_error {hasCfg : Bool} {w : Word} {why : IllegalKind}
    (h : readHeader hasCfg w = .error why) (rest : List Word) : decode hasCfg (w :: rest) = .illegal why rest := by
  simp only [decode, h]

/-- Said once: what the decoder makes of a header word and the words after it (R74, R77, R79). -/
theorem decode_cons_cases (hasCfg : Bool) (w : Word) (rest : List Word) :
    (illegalHeader hasCfg w ∧ ∃ why, decode hasCfg (w :: rest) = .illegal why rest) ∨
    (¬ illegalHeader hasCfg w ∧ rest.length + 1 < lengthByRule hasCfg w ∧
      decode hasCfg (w :: rest) = .truncated) ∨
    (¬ illegalHeader hasCfg w ∧ lengthByRule hasCfg w ≤ rest.length + 1 ∧
      ∃ i after, decode hasCfg (w :: rest) = .command i after ∧ w :: rest = encode i ++ after ∧
        i.length = lengthByRule hasCfg w ∧ i.wf = true ∧ i.present hasCfg = true) := by
  cases h : readHeader hasCfg w with
  | error why => exact .inl ⟨illegalHeader_of_readHeader h, why, decode_of_readHeader_error h rest⟩
  | ok op =>
    have hlegal : ¬ illegalHeader hasCfg w := not_illegalHeader_iff.mpr ⟨op, h⟩
    have hfit := (readHeader_eq_ok_iff.mp h).2
    rw [decode_of_readHeader_ok h, lengthByRule_of_readHeader h]
    rcases Nat.lt_or_ge rest.length (operandCount op (headerArg w)) with hshort | hlong
    · exact .inr (.inl ⟨hlegal, by omega, decodeOperands_truncated hshort⟩)
    · obtain ⟨i, after, hdecode, hwords, hcommand⟩ := decodeOperands_command hfit hlong
      rw [← eq_headerWord_of_readHeader h] at hwords
      exact .inr (.inr ⟨hlegal, by omega, i, after, hdecode, hwords, hcommand⟩)

/-- Settles O8: every command the decoder gives comes from a legal header with all its operand words. -/
theorem decodedWordsAreTheEncoding : Obligations.DecodedWordsAreTheEncoding := by
  unfold Obligations.DecodedWordsAreTheEncoding
  intro hasCfg ws rest i hdecode
  cases ws with
  | nil => cases hdecode
  | cons w ws =>
    obtain ⟨-, why, hill⟩ | ⟨-, -, htrunc⟩ | ⟨-, -, j, after, hcommand, hwords, -, hwf, hpresent⟩ :=
      decode_cons_cases hasCfg w ws
    · rw [hill] at hdecode; cases hdecode
    · rw [htrunc] at hdecode; cases hdecode
    · rw [hcommand] at hdecode
      cases hdecode
      exact ⟨hwords, hwf, hpresent⟩

/-! ### What a step does with the words it finds -/

theorem fetch_of_stream {s : State} {ws : List Word} (h : s.stream.drop s.pc = ws) :
    fetch s = decode s.straps.hasCfg ws := by
  rw [← h]
  rfl

theorem decode_illegal_of_illegalHeader {hasCfg : Bool} {w : Word} (rest : List Word) (h : illegalHeader hasCfg w) :
    ∃ why, decode hasCfg (w :: rest) = .illegal why rest := by
  obtain ⟨-, hdecode⟩ | ⟨hlegal, -⟩ | ⟨hlegal, -⟩ := decode_cons_cases hasCfg w rest
  · exact hdecode
  · exact absurd h hlegal
  · exact absurd h hlegal

theorem step_of_fetch_illegal {s : State} {why : IllegalKind} {rest : List Word} (h : fetch s = .illegal why rest) :
    step s = .next (illegalCommand s) := by
  simp only [step, h]

/-- A command always ends with a response (R160): it is never stuck. -/
theorem exec_ne_fault (i : Instr) (s : State) (f : Fault) : exec i s ≠ .fault f := by
  rcases exec_cases i s with ⟨-, h⟩ | ⟨-, r, h, -⟩ <;> rw [h] <;> nofun

/-- Said once: where the stream stands, and what a step does there (R74, R77, R79, R176). -/
theorem step_cases (s : State) :
    (s.stream.drop s.pc = [] ∧ step s = .fault .awaitingCommand) ∨
    ∃ w rest, s.stream.drop s.pc = w :: rest ∧
      ((illegalHeader s.straps.hasCfg w ∧ step s = .next (illegalCommand s)) ∨
       (rest.length + 1 < lengthByRule s.straps.hasCfg w ∧ step s = .fault .truncatedCommand) ∨
       (lengthByRule s.straps.hasCfg w ≤ rest.length + 1 ∧
         ∃ i, i.length = lengthByRule s.straps.hasCfg w ∧ step s = exec i s)) := by
  cases hstream : s.stream.drop s.pc with
  | nil => exact .inl ⟨rfl, by simp only [step, fetch_of_stream hstream]; rfl⟩
  | cons w rest =>
    refine .inr ⟨w, rest, rfl, ?_⟩
    have hfetch := fetch_of_stream hstream
    obtain ⟨hill, why, h⟩ | ⟨-, hshort, h⟩ | ⟨-, hlong, i, after, h, -, hlength, -⟩ :=
      decode_cons_cases s.straps.hasCfg w rest
    · exact .inl ⟨hill, step_of_fetch_illegal (hfetch.trans h)⟩
    · exact .inr (.inl ⟨hshort, by simp only [step, hfetch, h]⟩)
    · exact .inr (.inr ⟨hlong, i, hlength, step_of_fetch_command (hfetch.trans h)⟩)

/-- Settles O10: an illegal header is the one case in which the decoder answers `illegal`, and the step on it is
`illegalCommand`. -/
theorem illegalHeadersAreThoseOfTheRule : Obligations.IllegalHeadersAreThoseOfTheRule := by
  unfold Obligations.IllegalHeadersAreThoseOfTheRule
  refine ⟨fun hasCfg w rest => ⟨?_, decode_illegal_of_illegalHeader rest⟩, ?_, by decide, by decide⟩
  · rintro ⟨why, hdecode⟩
    by_contra hlegal
    obtain ⟨hill, -⟩ | ⟨-, -, h⟩ | ⟨-, -, i, after, h, -⟩ := decode_cons_cases hasCfg w rest
    · exact hlegal hill
    · rw [h] at hdecode; cases hdecode
    · rw [h] at hdecode; cases hdecode
  · intro s w rest hstream hill
    obtain ⟨why, hdecode⟩ := decode_illegal_of_illegalHeader rest hill
    exact step_of_fetch_illegal ((fetch_of_stream hstream).trans hdecode)

/-- Settles O11: a step that completes ran an illegal header, of length 1, or a command of the header's length. -/
theorem headerAloneDecidesLength : Obligations.HeaderAloneDecidesLength := by
  unfold Obligations.HeaderAloneDecidesLength
  refine ⟨headerLength_eq_lengthByRule, fun s t hstep => ?_⟩
  obtain ⟨-, h⟩ | ⟨w, rest, hstream, ⟨hill, h⟩ | ⟨-, h⟩ | ⟨hlong, i, hlength, h⟩⟩ := step_cases s
  · rw [h] at hstep; cases hstep
  · rw [h] at hstep
    cases hstep
    have hone := lengthByRule_of_illegalHeader hill
    exact ⟨w, rest, hstream, by omega, by rw [hone]; rfl⟩
  · rw [h] at hstep; cases hstep
  · rw [h] at hstep
    exact ⟨w, rest, hstream, hlong, by rw [exec_pc hstep, hlength]⟩

/-- Settles O13: of the four things a step can do, two are the named faults, each where its words are missing. -/
theorem stuckExactlyWithoutAWholeCommand : Obligations.StuckExactlyWithoutAWholeCommand := by
  unfold Obligations.StuckExactlyWithoutAWholeCommand
  intro s
  obtain ⟨hstream, h⟩ | ⟨w, rest, hstream, hcases⟩ := step_cases s
  · simp [h, hstream]
  · obtain ⟨hill, h⟩ | ⟨hshort, h⟩ | ⟨hlong, i, -, h⟩ := hcases
    · simp [h, hstream, lengthByRule_of_illegalHeader hill]
    · simp [h, hstream, hshort]
    · simp [h, hstream, exec_ne_fault, hlong]

/-- Settles O14: the decoder evaluated on each sequence. -/
theorem writtenOutWordsDecode : Obligations.WrittenOutWordsDecode := by
  unfold Obligations.WrittenOutWordsDecode
  decide

/-! ### The assembler's words -/

theorem asmWords_seta_of_wf {values : List Word} (hwf : (Instr.seta values).wf = true) :
    asmWords (.seta (values.map BitVec.toNat)) = some (encode (.seta values)) := by
  have hcount : values.length < 256 := by simpa [Instr.wf, Nat.lt_succ_iff] using hwf
  have hfit : (values.map BitVec.toNat).all (· < 65536) = true := by
    simp only [List.all_map, List.all_eq_true]
    exact fun v _ => decide_eq_true v.isLt
  have hback : (values.map BitVec.toNat).map (BitVec.ofNat 16) = values := by
    simp [Function.comp_def]
  simp only [asmWords, List.length_map, hcount, hfit, hback]
  rfl

theorem asmWords_seta_of_not_fits {values : List Nat} (h : 256 ≤ values.length ∨ ∃ v ∈ values, 65536 ≤ v) :
    asmWords (.seta values) = none := by
  refine if_neg fun ⟨hcount, hfit⟩ => ?_
  rcases h with h | ⟨v, hv, h⟩
  · omega
  · have hlt : v < 65536 := by simpa using List.all_eq_true.mp hfit v hv
    omega

/-- Settles O16: the assembler's guards are the widths of the fields, so an operand that passes them is unchanged by its
field. -/
theorem assemblerWordsAreTheEncoding : Obligations.AssemblerWordsAreTheEncoding := by
  unfold Obligations.AssemblerWordsAreTheEncoding
  refine ⟨?_, ?_, ?_, rfl, ?_, ⟨rfl, rfl⟩, ?_, ?_, ?_, ?_, ?_, ?_, ?_⟩
  · intro ch on off
    simp [asmWords, encode, on.isLt, off.isLt, ch.isLt]
  · intro ch v
    simp [asmWords, encode, v.isLt, ch.isLt]
  · exact fun values hwf => asmWords_seta_of_wf hwf
  · intro hz
    simp [asmWords, encode, hz.isLt]
  · intro x
    simp [asmWords, x.isLt]
  · exact fun ch on off h => if_neg (by omega)
  · exact fun ch v h => if_neg (by omega)
  · exact fun values h => asmWords_seta_of_not_fits h
  · exact fun hz h => if_neg (by omega)
  · exact fun t h => if_neg (by omega)
  · exact fun x h => if_neg (by omega)

end Sys2Proof.Machine
end

section
/-! PROOFS. The primitives of 40_primitives: the bytes of a timing value, the channel addresses, the pair of a duty
value. -/

namespace Sys2Proof.Machine

/-! ### The two bytes of a timing value -/

theorem pack13_low_toNat (v : Word) : (pack13 v).1.toNat = v.toNat % 256 := by
  simp [pack13, BitVec.extractLsb'_toNat]

theorem pack13_high_toNat (v : Word) : (pack13 v).2.toNat = v.toNat / 256 % 32 := by
  have hzeros : (pack13 v).2.toNat = (v.extractLsb' 8 5).toNat :=
    (BitVec.toNat_append 0#3 (v.extractLsb' 8 5)).trans (by simp)
  rw [hzeros, BitVec.extractLsb'_toNat, Nat.shiftRight_eq_div_pow]

/-- The bytes depend on the 13 low bits alone (R90). -/
theorem pack13_eq_of_mod_eq {v w : Word} (h : v.toNat % 8192 = w.toNat % 8192) : pack13 v = pack13 w := by
  apply Prod.ext <;> apply BitVec.eq_of_toNat_eq
  · rw [pack13_low_toNat, pack13_low_toNat]
    omega
  · rw [pack13_high_toNat, pack13_high_toNat]
    omega

/-- Bit 4 of the high byte is the force flag, bit 12 of the value (R33, R90). -/
theorem pack13_high_bit4 (v : Word) : (pack13 v).2.getLsbD 4 = decide (v.toNat / 4096 % 2 = 1) := by
  rw [← BitVec.testBit_toNat, pack13_high_toNat, Nat.testBit_eq_decide_div_mod_eq]
  exact decide_eq_decide.mpr (by omega)

/-- Settles O1: both bytes as numbers, and the force flag as a bit, decide every clause. -/
theorem packingKeepsThirteenBits : Obligations.PackingKeepsThirteenBits := by
  unfold Obligations.PackingKeepsThirteenBits
  intro v
  have hlow := pack13_low_toNat v
  have hhigh := pack13_high_toNat v
  refine ⟨hlow, hhigh, fun hpos => ⟨by omega, ?_⟩, fun hforce => ?_, fun hge hle => ⟨?_, by omega⟩, ?_, by decide⟩
  · rw [pack13_high_bit4, decide_eq_false (by omega)]
  · exact (pack13_eq_of_mod_eq (w := 4096) (by rw [hforce]; rfl)).trans (by decide)
  · rw [pack13_high_bit4, decide_eq_true (by omega)]
  · apply pack13_eq_of_mod_eq
    rw [BitVec.toNat_ofNat]
    omega

/-- Settles O2: no base address wraps, and the sixteen values are evaluated. -/
theorem channelBaseIsSixPlusFourTimesChannel : Obligations.ChannelBaseIsSixPlusFourTimesChannel := by
  unfold Obligations.ChannelBaseIsSixPlusFourTimesChannel
  exact ⟨fun _ hch => chanBase_toNat hch, by decide⟩

/-- Settles O4: each byte is a half of its timing value. -/
theorem pairBytesAreInRegisterOrder : Obligations.PairBytesAreInRegisterOrder := by
  unfold Obligations.PairBytesAreInRegisterOrder
  refine ⟨fun p => ⟨?_, rfl⟩, by decide⟩
  simp only [pairBytes, List.map_cons, List.map_nil, pack13_low_toNat, pack13_high_toNat]

/-! ### The pair of a duty value -/

theorem classify_eq_off_iff (v : Word) : classify v = .off ↔ v.toNat = 0 := by
  refine ⟨fun h => ?_, classify_off⟩
  by_contra hne
  by_cases hfull : 4095 ≤ v.toNat
  · simp [classify_on hfull] at h
  · simp [classify_dimmed (v := v) (by omega) (by omega)] at h

theorem classify_eq_dimmed_iff (v : Word) : classify v = .dimmed ↔ 1 ≤ v.toNat ∧ v.toNat ≤ 4094 :=
  ⟨toNat_of_classify_dimmed, fun ⟨hlow, hhigh⟩ => classify_dimmed hlow hhigh⟩

/-- `on` is what the other two classes leave (R92). -/
theorem classify_eq_on_iff (v : Word) : classify v = .on ↔ 4095 ≤ v.toNat := by
  refine ⟨fun h => ?_, classify_on⟩
  have hoff := classify_eq_off_iff v
  have hdimmed := classify_eq_dimmed_iff v
  simp only [h, reduceCtorEq, false_iff] at hoff hdimmed
  omega

theorem dutyPair_of_off {v : Word} (h : classify v = .off) : dutyPair v = pairOff := by rw [dutyPair, h]

theorem dutyPair_of_on {v : Word} (h : classify v = .on) : dutyPair v = pairOn := by rw [dutyPair, h]

theorem dutyPair_of_dimmed {v : Word} (h : classify v = .dimmed) : dutyPair v = { on := 0, off := v } := by
  rw [dutyPair, h]

/-- Settles O3: the range of each class, and the pair of each class. -/
theorem dutyPairSaturatesAt4095 : Obligations.DutyPairSaturatesAt4095 := by
  unfold Obligations.DutyPairSaturatesAt4095
  exact fun v => ⟨classify_eq_off_iff v, classify_eq_on_iff v, classify_eq_dimmed_iff v,
    fun h => dutyPair_of_off (classify_off h), fun h => dutyPair_of_on (classify_on h),
    fun hlow hhigh => dutyPair_of_dimmed (classify_dimmed hlow hhigh), rfl, rfl⟩

end Sys2Proof.Machine
end

section
/-! PROOFS. The CFG extension of 41_init_mode: the prescaler byte as a nearest integer, and the bus transactions of
INIT, SETF and SETM, with each place where a fault can stop them. -/

namespace Sys2Proof.Machine

/-! ### The prescaler byte -/

theorem clampFreq_eq_min_max (f : Nat) : clampFreq f = min (max f 24) 1526 := by
  unfold clampFreq freqMin freqMax
  split
  · omega
  · split <;> omega

theorem clampFreq_range (f : Nat) : 24 ≤ clampFreq f ∧ clampFreq f ≤ 1526 := by
  rw [clampFreq_eq_min_max]
  omega

theorem clampFreq_mono {f g : Nat} (h : f ≤ g) : clampFreq f ≤ clampFreq g := by
  rw [clampFreq_eq_min_max, clampFreq_eq_min_max]
  omega

/-- The byte is the quotient of R101 less 1: neither the subtraction nor the width of a byte loses anything. -/
theorem prescale_toNat_succ (f : Word) :
    (prescale f).toNat + 1 = (2 * 25000000 + 4096 * clampFreq f.toNat) / (2 * 4096 * clampFreq f.toNat) := by
  obtain ⟨hlow, hhigh⟩ := clampFreq_range f.toNat
  have hpos : 1 ≤ (2 * 25000000 + 4096 * clampFreq f.toNat) / (2 * 4096 * clampFreq f.toNat) := by
    rw [Nat.le_div_iff_mul_le (by omega)]
    omega
  have hbyte : (2 * 25000000 + 4096 * clampFreq f.toNat) / (2 * 4096 * clampFreq f.toNat) < 256 := by
    rw [Nat.div_lt_iff_lt_mul (by omega)]
    omega
  simp only [prescale, prescaleNat, oscHz, BitVec.toNat_ofNat]
  omega

/-- The byte plus 1 is within half of 25 MHz over 4096 times the clamped frequency, by the remainder of its division;
half itself cannot be, since 4096 does not divide 50 million (R101). -/
theorem prescale_nearest (f : Word) :
    8192 * (clampFreq f.toNat * ((prescale f).toNat + 1)) < 50000000 + 4096 * clampFreq f.toNat ∧
      50000000 < 8192 * (clampFreq f.toNat * ((prescale f).toNat + 1)) + 4096 * clampFreq f.toNat := by
  have hpos : 0 < 2 * 4096 * clampFreq f.toNat := by have := clampFreq_range f.toNat; omega
  have hle := Nat.mul_div_le (2 * 25000000 + 4096 * clampFreq f.toNat) (2 * 4096 * clampFreq f.toNat)
  have hlt := Nat.lt_mul_div_succ (2 * 25000000 + 4096 * clampFreq f.toNat) hpos
  rw [← prescale_toNat_succ f] at hle hlt
  rw [mul_assoc] at hle
  rw [mul_add, mul_assoc] at hlt
  omega

/-- A higher frequency leaves less room for the quotient: a larger byte would be more than half a unit too large. -/
theorem prescale_antitone {f g : Word} (h : f.toNat ≤ g.toNat) : (prescale g).toNat ≤ (prescale f).toNat := by
  by_contra hlt
  have hf := (prescale_nearest f).2
  have hg := (prescale_nearest g).1
  have hbytes : clampFreq f.toNat * ((prescale f).toNat + 1 + 1) ≤ clampFreq f.toNat * ((prescale g).toNat + 1) :=
    Nat.mul_le_mul_left _ (by omega)
  obtain ⟨d, hd⟩ := Nat.exists_eq_add_of_le (clampFreq_mono h)
  have hclamps : d ≤ d * ((prescale g).toNat + 1) := Nat.le_mul_of_pos_right d (by omega)
  rw [hd, Nat.add_mul] at hg
  rw [Nat.mul_add_one] at hbytes
  omega

/-- Settles O5: the byte plus 1 is the clamped quotient, which the remainder of its division places strictly within one
half. -/
theorem prescaleIsNearestInteger : Obligations.PrescaleIsNearestInteger := by
  unfold Obligations.PrescaleIsNearestInteger
  refine ⟨fun f => ⟨clampFreq f.toNat, ?_, ?_, ?_, Nat.eq_sub_of_add_eq (prescale_toNat_succ f), ?_, ?_,
    prescale_toNat_range f⟩, fun f g => prescale_antitone, by decide⟩
  · rw [clampFreq_eq_min_max]; omega
  · rw [clampFreq_eq_min_max]; omega
  · rw [clampFreq_eq_min_max]; omega
  all_goals
    have hnear := prescale_nearest f
    zify at hnear
    rw [mul_assoc]
    omega

/-! ### The state after some bus transactions -/

/-- The state after `k` transactions that made the calls `cs` and left the register image `m`. -/
def State.afterBus (k : Nat) (cs : List Call) (m : Memory) (s : State) : State :=
  { s with
    reg := m
    inFlight := none
    pointer := none
    calls := s.calls ++ cs
    statusIn := s.statusIn.drop k
    statusDraws := s.statusDraws + (k - s.statusIn.length) }

/-- The state with the byte of a bus read taken: a free one where the register is unknown. -/
def State.afterByte (addr : Byte) (s : State) : State :=
  { s with byteIn := byteInAfterRead addr s, byteDraws := byteDrawsAfterRead addr s }

@[simp] theorem afterBus_reg (k : Nat) (cs : List Call) (m : Memory) (s : State) : (s.afterBus k cs m).reg = m := rfl

theorem afterBus_afterBus (j k : Nat) (cs ds : List Call) (m n : Memory) (s : State) :
    (s.afterBus j cs m).afterBus k ds n = s.afterBus (j + k) (cs ++ ds) n := by
  simp only [State.afterBus, List.drop_drop, List.length_drop, List.append_assoc, State.mk.injEq, true_and, and_true]
  omega

/-- The statuses to come depend on the model's two carriers of them alone (R11). -/
theorem statusAt_congr {s t : State} (hin : t.statusIn = s.statusIn) (hdraws : t.statusDraws = s.statusDraws)
    (k : Nat) : statusAt k t = statusAt k s := by
  induction k generalizing s t with
  | zero => simp only [statusAt, nextStatus, hin, hdraws]
  | succ k ih => exact ih (by simp only [takeStatus_statusIn, hin]) (by simp only [takeStatus_statusDraws, hin, hdraws])

theorem statusAt_afterByte (k : Nat) (addr : Byte) (s : State) : statusAt k (s.afterByte addr) = statusAt k s :=
  statusAt_congr (s := s) (t := s.afterByte addr) rfl rfl k

/-- The statuses to come after `k` transactions are those from the `k`-th on (R11). -/
theorem statusAt_afterBus (j k : Nat) (cs : List Call) (m : Memory) (s : State) :
    statusAt j (s.afterBus k cs m) = statusAt (k + j) s := by
  induction k generalizing s with
  | zero =>
    rw [Nat.zero_add]
    exact statusAt_congr (by simp [State.afterBus]) (by simp [State.afterBus]) j
  | succ k ih =>
    rw [Nat.succ_add]
    refine (statusAt_congr ?_ ?_ j).trans (ih (takeStatus s))
    · simp [State.afterBus]
    · simp only [State.afterBus, takeStatus_statusDraws, takeStatus_statusIn, drawsAfter_eq, List.length_tail]
      omega

/-! ### One bus access of a command -/

theorem memWrite_eq_afterBus (addr : Byte) (bytes : List Byte) (s : State) :
    memWrite addr bytes s =
      (statusAt 0 s, s.afterBus 1 (writeCalls s.straps.deviceAddr addr bytes (statusAt 0 s))
        (chipWrite s.straps.prescalerNeedsSleep (statusAt 0 s) addr.toNat bytes s.reg)) := by
  simp only [memWrite_eq, statusAt, State.afterBus, List.drop_one, drawsAfter_eq]

/-- A bus write that follows `k` transactions. -/
theorem memWrite_afterBus (addr : Byte) (bytes : List Byte) (k : Nat) (cs : List Call) (m : Memory) (s : State) :
    memWrite addr bytes (s.afterBus k cs m) =
      (statusAt k s, s.afterBus (k + 1) (cs ++ writeCalls s.straps.deviceAddr addr bytes (statusAt k s))
        (chipWrite s.straps.prescalerNeedsSleep (statusAt k s) addr.toNat bytes m)) := by
  rw [memWrite_eq_afterBus, statusAt_afterBus, afterBus_afterBus]
  rfl

theorem memRead_eq_afterBus {addr : Byte} {s : State} (h : statusAt 0 s = .ok) :
    memRead addr s =
      (some (byteAt addr s),
        (s.afterByte addr).afterBus 1 (readCalls s.straps.deviceAddr addr (byteAt addr s)) s.reg) := by
  rw [memRead_ok addr s h]
  simp only [State.afterBus, State.afterByte, List.drop_one, drawsAfter_eq]

theorem memRead_fault_eq_afterBus {addr : Byte} {s : State} (h : statusAt 0 s = .fault) :
    memRead addr s =
      (none, s.afterBus 1 (readFaultCalls s.straps.deviceAddr addr) (Memory.forget addr.toNat s.reg)) := by
  rw [memRead_fault addr s h]
  simp only [State.afterBus, List.drop_one, drawsAfter_eq]

/-! ### The registers after a write of one byte -/

theorem chipWrite_fault_byte (needsSleep : Bool) (addr : Nat) (b : Byte) (m : Memory) :
    chipWrite needsSleep .fault addr [b] m = Memory.forget addr m := rfl

theorem chipWrite_ok_byte {needsSleep : Bool} {addr : Nat} {m : Memory}
    (h : prescalerMayIgnore needsSleep addr m = false) (b : Byte) :
    chipWrite needsSleep .ok addr [b] m = Memory.write addr b m := by
  simp [chipWrite, h, Memory.writeBlock]

theorem chipWrite_ok_byte_of_ne {addr : Nat} (haddr : addr ≠ 0xFE) (needsSleep : Bool) (b : Byte) (m : Memory) :
    chipWrite needsSleep .ok addr [b] m = Memory.write addr b m :=
  chipWrite_ok_byte (prescalerMayIgnore_of_ne haddr needsSleep m) b

/-- Setting SLEEP in MODE1 puts the chip to sleep, whatever the byte was (R29). -/
theorem asleep_write_setSleep (b : Byte) (m : Memory) :
    Memory.asleep (Memory.write 0x00 (setBits maskSleep b) m) = true := by
  have hmask : setBits maskSleep b &&& maskSleep = maskSleep := by
    ext k hk
    simp only [setBits, BitVec.getElem_and, BitVec.getElem_or]
    cases maskSleep[k] <;> simp
  simp [Memory.asleep, Memory.mode1Has, addrMode1, Memory.read_write, hmask]

/-- SLEEP is a bit of MODE1 alone. -/
theorem asleep_forget_prescaler (m : Memory) : Memory.asleep (Memory.forget 0xFE m) = Memory.asleep m := by
  simp [Memory.asleep, Memory.mode1Has, addrMode1, Memory.read_forget]

/-- INIT's byte leaves the chip awake (R102). -/
theorem asleep_write_initMode1 (m : Memory) : Memory.asleep (Memory.write 0x00 initMode1 m) = false := by
  simp [Memory.asleep, Memory.mode1Has, addrMode1, Memory.read_write, initMode1, maskSleep, maskRestart,
    maskAutoIncrement]

/-- A chip that has just been put to sleep takes the PRESCALER write, whether it needs sleep for it or not (R196). -/
theorem chipWrite_prescaler_of_setSleep (needsSleep : Bool) (p b : Byte) (m : Memory) :
    chipWrite needsSleep .ok 0xFE [p] (Memory.write 0x00 (setBits maskSleep b) m) =
      Memory.write 0xFE p (Memory.write 0x00 (setBits maskSleep b) m) :=
  chipWrite_ok_byte ((prescalerMayIgnore_eq_false_iff _ _).mpr (.inr (asleep_write_setSleep b m))) p

/-! ### `set_frequency`, up to each of its faults -/

/-- R103 without the bracket: the one bus write. -/
theorem setFrequency_unbracketed {s : State} (hbracket : s.straps.prescaleSleepBracket = false) (f : Word) :
    setFrequency f s = memWrite 0xFE [prescale f] s := by
  rw [setFrequency, hbracket, if_neg Bool.false_ne_true]
  rfl

section Bracket

variable {s : State} (hbracket : s.straps.prescaleSleepBracket = true) (f : Word)
include hbracket

theorem setFrequency_bracketed : setFrequency f s = bracketedPrescaler (prescale f) s := by
  rw [setFrequency, if_pos hbracket]

/-- R103 where the read of MODE1 faults. -/
theorem setFrequency_faults_at_read (h0 : statusAt 0 s = .fault) :
    setFrequency f s =
      (.fault, s.afterBus 1 (readFaultCalls s.straps.deviceAddr 0x00) (Memory.forget 0x00 s.reg)) := by
  simp only [setFrequency_bracketed hbracket, bracketedPrescaler, memRead_fault_eq_afterBus h0, withByte]
  rfl

/-- R103 where the write that sets SLEEP faults. -/
theorem setFrequency_faults_at_setSleep (h0 : statusAt 0 s = .ok) (h1 : statusAt 1 s = .fault) :
    setFrequency f s =
      (.fault, (s.afterByte 0x00).afterBus 2
        (readCalls s.straps.deviceAddr 0x00 (byteAt 0x00 s) ++
          writeCalls s.straps.deviceAddr 0x00 [setBits maskSleep (byteAt 0x00 s)] .fault)
        (Memory.forget 0x00 s.reg)) := by
  simp only [setFrequency_bracketed hbracket, bracketedPrescaler, memRead_eq_afterBus h0, withByte,
    memWrite_afterBus, statusAt_afterByte, h1, andThen]
  rfl

/-- R103 where the PRESCALER write faults. -/
theorem setFrequency_faults_at_prescaler (h0 : statusAt 0 s = .ok) (h1 : statusAt 1 s = .ok)
    (h2 : statusAt 2 s = .fault) :
    setFrequency f s =
      (.fault, (s.afterByte 0x00).afterBus 3
        (readCalls s.straps.deviceAddr 0x00 (byteAt 0x00 s) ++
          writeCalls s.straps.deviceAddr 0x00 [setBits maskSleep (byteAt 0x00 s)] .ok ++
          writeCalls s.straps.deviceAddr 0xFE [prescale f] .fault)
        (Memory.forget 0xFE (Memory.write 0x00 (setBits maskSleep (byteAt 0x00 s)) s.reg))) := by
  simp only [setFrequency_bracketed hbracket, bracketedPrescaler, memRead_eq_afterBus h0, withByte,
    memWrite_afterBus, statusAt_afterByte, h1, h2, andThen]
  rw [chipWrite_fault_byte, chipWrite_ok_byte_of_ne (by decide)]
  rfl

/-- R103 where the first three transactions succeed, whatever the status of the last, which puts MODE1 back. -/
theorem setFrequency_reaches_restore (h0 : statusAt 0 s = .ok) (h1 : statusAt 1 s = .ok) (h2 : statusAt 2 s = .ok) :
    setFrequency f s =
      (statusAt 3 s, (s.afterByte 0x00).afterBus 4
        (readCalls s.straps.deviceAddr 0x00 (byteAt 0x00 s) ++
          writeCalls s.straps.deviceAddr 0x00 [setBits maskSleep (byteAt 0x00 s)] .ok ++
          writeCalls s.straps.deviceAddr 0xFE [prescale f] .ok ++
          writeCalls s.straps.deviceAddr 0x00 [byteAt 0x00 s] (statusAt 3 s))
        (chipWrite s.straps.prescalerNeedsSleep (statusAt 3 s) 0x00 [byteAt 0x00 s]
          (Memory.write 0xFE (prescale f) (Memory.write 0x00 (setBits maskSleep (byteAt 0x00 s)) s.reg)))) := by
  rw [← chipWrite_prescaler_of_setSleep s.straps.prescalerNeedsSleep,
    ← chipWrite_ok_byte_of_ne (by decide) s.straps.prescalerNeedsSleep _ s.reg]
  simp only [setFrequency_bracketed hbracket, bracketedPrescaler, memRead_eq_afterBus h0, withByte,
    memWrite_afterBus, statusAt_afterByte, h1, h2, andThen]
  rfl

end Bracket

/-! ### SETF -/

theorem exec_setf_of_setFrequency {hz : Word} {s t : State} {status : TxnStatus}
    (h : setFrequency hz s = (status, t)) : exec (.setf hz) s = .next (finish (responseFor status) 2 t) := by
  simp only [exec, execSetf, h, conclude_eq_finish]

/-- Settles O37: MODE1 gets back the byte read over the SLEEP byte, and PRESCALER keeps its own. -/
theorem setfBracketsThePrescalerWrite : Obligations.SetfBracketsThePrescalerWrite := by
  unfold Obligations.SetfBracketsThePrescalerWrite
  intro hz s hbracket hok
  have hrun := setFrequency_reaches_restore hbracket hz (hok 0 (by decide)) (hok 1 (by decide)) (hok 2 (by decide))
  rw [hok 3 (by decide), chipWrite_ok_byte_of_ne (by decide)] at hrun
  refine ⟨_, exec_setf_of_setFrequency hrun, ⟨rfl, rfl⟩, rfl, fun a => ?_, ⟨rfl, rfl, rfl, rfl⟩, rfl, rfl, ⟨rfl, rfl⟩,
    ⟨rfl, rfl, rfl, rfl, rfl⟩, rfl⟩
  simp only [finish_reg, afterBus_reg, Memory.read_write]
  split_ifs <;> rfl

/-- Settles O38: the one bus write, read by `read_chipWrite_prescaler`. -/
theorem setfWithoutBracketWritesPrescalerOnly : Obligations.SetfWithoutBracketWritesPrescalerOnly := by
  unfold Obligations.SetfWithoutBracketWritesPrescalerOnly
  intro hz s hbracket
  have hrun := (setFrequency_unbracketed hbracket hz).trans (memWrite_eq_afterBus _ _ s)
  exact ⟨_, exec_setf_of_setFrequency hrun, ⟨rfl, rfl⟩, rfl, read_chipWrite_prescaler _ _ _ _, ⟨rfl, rfl, rfl, rfl⟩,
    ⟨rfl, rfl⟩, ⟨rfl, rfl⟩, ⟨rfl, rfl, rfl, rfl, rfl⟩, rfl⟩

/-- Settles O42: the runs that end at the read of MODE1, at the write that sets SLEEP, and at the write that puts MODE1
back. -/
theorem setfStopsAtItsFirstFault : Obligations.SetfStopsAtItsFirstFault := by
  unfold Obligations.SetfStopsAtItsFirstFault
  intro hz s hbracket
  refine ⟨fun h0 => ?_, fun h0 h1 => ?_, fun hok h3 => ?_⟩
  · have hrun := setFrequency_faults_at_read hbracket hz h0
    exact ⟨_, exec_setf_of_setFrequency hrun, ⟨rfl, rfl⟩, rfl, Memory.read_forget _ _, rfl, rfl⟩
  · have hrun := setFrequency_faults_at_setSleep hbracket hz h0 h1
    exact ⟨_, exec_setf_of_setFrequency hrun, ⟨rfl, rfl⟩, rfl, Memory.read_forget _ _⟩
  · have hrun := setFrequency_reaches_restore hbracket hz (hok 0 (by decide)) (hok 1 (by decide)) (hok 2 (by decide))
    rw [h3, chipWrite_fault_byte] at hrun
    refine ⟨_, exec_setf_of_setFrequency hrun, ⟨rfl, rfl⟩, rfl, fun a => ?_⟩
    simp only [finish_reg, afterBus_reg, Memory.read_forget, Memory.read_write]
    split_ifs <;> rfl

/-- Settles O43: the PRESCALER write faults after SLEEP has been set, and nothing clears it. -/
theorem faultInsideTheBracketLeavesTheChipAsleep : Obligations.FaultInsideTheBracketLeavesTheChipAsleep := by
  unfold Obligations.FaultInsideTheBracketLeavesTheChipAsleep
  intro hz s hbracket h0 h1 h2
  have hrun := setFrequency_faults_at_prescaler hbracket hz h0 h1 h2
  refine ⟨_, exec_setf_of_setFrequency hrun, ⟨rfl, rfl⟩, ?_, rfl, fun a => ?_⟩
  · rw [finish_reg, afterBus_reg]
    exact (asleep_forget_prescaler _).trans (asleep_write_setSleep _ _)
  · simp only [finish_reg, afterBus_reg, Memory.read_forget, Memory.read_write]
    split_ifs with hprescaler hmode1
    · omega
    · rfl
    · rfl
    · rfl

/-! ### SETM -/

/-- `withOutputMode` sets the drive bit as asked and keeps the seven others (R104). -/
theorem getLsbD_withOutputMode (totemPole : Bool) (m : Byte) (k : Nat) :
    (withOutputMode totemPole m).getLsbD k = if k = 2 then totemPole else m.getLsbD k := by
  have hmask : maskTotemPole.getLsbD k = decide (k = 2) := by
    rw [show maskTotemPole = BitVec.twoPow 8 2 from rfl, BitVec.getLsbD_twoPow]
    simp [eq_comm]
  cases totemPole with
  | true =>
    simp only [withOutputMode, setBits, if_true, BitVec.getLsbD_or, hmask]
    by_cases hk : k = 2 <;> simp [hk]
  | false =>
    simp only [withOutputMode, clearBits, Bool.false_eq_true, if_false, BitVec.getLsbD_and, BitVec.getLsbD_not, hmask]
    cases hbit : m.getLsbD k with
    | false => simp
    | true =>
      have hwidth : k < 8 := BitVec.lt_of_getLsbD hbit
      by_cases hk : k = 2 <;> simp [hk, hwidth]

/-- SETM where its read faults (R104, R167). -/
theorem exec_setm_of_read_fault {s : State} (h0 : statusAt 0 s = .fault) (totemPole : Bool) :
    exec (.setm totemPole) s = .next (finish .transportFault 1
      (s.afterBus 1 (readFaultCalls s.straps.deviceAddr 0x01) (Memory.forget 0x01 s.reg))) := by
  simp only [exec, execSetm, memRead_fault_eq_afterBus h0, withByte, conclude_eq_finish]
  rfl

/-- SETM where its read succeeds, whatever the status of its write (R104). -/
theorem exec_setm_of_read_ok {s : State} (h0 : statusAt 0 s = .ok) (totemPole : Bool) :
    exec (.setm totemPole) s = .next (finish (responseFor (statusAt 1 s)) 1
      ((s.afterByte 0x01).afterBus 2
        (readCalls s.straps.deviceAddr 0x01 (byteAt 0x01 s) ++
          writeCalls s.straps.deviceAddr 0x01 [withOutputMode totemPole (byteAt 0x01 s)] (statusAt 1 s))
        (chipWrite s.straps.prescalerNeedsSleep (statusAt 1 s) 0x01 [withOutputMode totemPole (byteAt 0x01 s)]
          s.reg))) := by
  simp only [exec, execSetm, memRead_eq_afterBus h0, withByte, memWrite_afterBus, statusAt_afterByte,
    conclude_eq_finish]
  rfl

/-- Settles O39: the byte written is the byte read but for its drive bit. -/
theorem setmChangesOneBitOfMode2 : Obligations.SetmChangesOneBitOfMode2 := by
  unfold Obligations.SetmChangesOneBitOfMode2
  intro totemPole s hok
  have hrun := exec_setm_of_read_ok (hok 0 (by decide)) totemPole
  rw [hok 1 (by decide), chipWrite_ok_byte_of_ne (by decide)] at hrun
  refine ⟨_, withOutputMode totemPole (byteAt 0x01 s), hrun, ⟨rfl, rfl⟩, ?_, fun k hk => ?_, rfl,
    Memory.read_write _ _ _, ⟨rfl, rfl, rfl, rfl⟩, rfl, rfl, ⟨rfl, rfl⟩, ⟨rfl, rfl, rfl, rfl, rfl⟩, rfl⟩
  · rw [getLsbD_withOutputMode, if_pos rfl]
  · rw [getLsbD_withOutputMode, if_neg hk]

/-- Settles O40: MODE2 is forgotten by the faulted read, and by the faulted write. -/
theorem setmStopsAtItsFirstFault : Obligations.SetmStopsAtItsFirstFault := by
  unfold Obligations.SetmStopsAtItsFirstFault
  intro totemPole s
  refine ⟨fun h0 => ?_, fun h0 h1 => ?_⟩
  · exact ⟨_, exec_setm_of_read_fault h0 totemPole, ⟨rfl, rfl⟩, rfl, Memory.read_forget _ _, rfl, rfl⟩
  · have hrun := exec_setm_of_read_ok h0 totemPole
    rw [h1, chipWrite_fault_byte] at hrun
    exact ⟨_, hrun, ⟨rfl, rfl⟩, Memory.read_forget _ _⟩

/-! ### INIT -/

/-- The state from which INIT sets the frequency: its byte is in MODE1 (R102). -/
def State.afterInitMode1 (s : State) : State :=
  s.afterBus 1 (writeCalls s.straps.deviceAddr 0x00 [initMode1] .ok) (Memory.write 0x00 initMode1 s.reg)

theorem byteAt_afterInitMode1 (s : State) : byteAt 0x00 s.afterInitMode1 = initMode1 := by
  simp [byteAt, State.afterInitMode1, State.afterBus, Memory.read_write]

/-- INIT has written MODE1 itself, so its bracket takes no free byte. -/
theorem afterByte_afterInitMode1 (s : State) : s.afterInitMode1.afterByte 0x00 = s.afterInitMode1 := by
  simp [State.afterByte, byteInAfterRead, byteDrawsAfterRead, State.afterInitMode1, State.afterBus, Memory.read_write]

theorem exec_init_of_write_ok {s t : State} {status : TxnStatus} (h0 : statusAt 0 s = .ok)
    (h : setFrequency s.straps.defaultFreqHz s.afterInitMode1 = (status, t)) :
    exec .init s = .next (finish (responseFor status) 1 t) := by
  have hwrite : memWrite addrMode1 [initMode1] s = (.ok, s.afterInitMode1) := by
    rw [memWrite_eq_afterBus, h0, chipWrite_ok_byte_of_ne (by decide)]
    rfl
  simp only [exec, execInit, hwrite, andThen, h, conclude_eq_finish]

/-- INIT with the bracket, every transaction successful: its bracket reads the byte that INIT has just written. -/
theorem exec_init_bracketed {s : State} (hbracket : s.straps.prescaleSleepBracket = true)
    (hok : ∀ k, k < 5 → statusAt k s = .ok) :
    exec .init s = .next (finish .ok 1 (s.afterBus 5
      (writeCalls s.straps.deviceAddr 0x00 [initMode1] .ok ++
        (readCalls s.straps.deviceAddr 0x00 initMode1 ++
          writeCalls s.straps.deviceAddr 0x00 [setBits maskSleep initMode1] .ok ++
          writeCalls s.straps.deviceAddr 0xFE [prescale s.straps.defaultFreqHz] .ok ++
          writeCalls s.straps.deviceAddr 0x00 [initMode1] .ok))
      (Memory.write 0x00 initMode1 (Memory.write 0xFE (prescale s.straps.defaultFreqHz)
        (Memory.write 0x00 (setBits maskSleep initMode1) (Memory.write 0x00 initMode1 s.reg)))))) := by
  have hstatus : ∀ k, k < 4 → statusAt k s.afterInitMode1 = .ok := fun k hk =>
    (statusAt_afterBus k 1 _ _ s).trans (hok (1 + k) (by omega))
  have hrun := setFrequency_reaches_restore (s := s.afterInitMode1) hbracket s.straps.defaultFreqHz
    (hstatus 0 (by decide)) (hstatus 1 (by decide)) (hstatus 2 (by decide))
  rw [hstatus 3 (by decide), chipWrite_ok_byte_of_ne (by decide), byteAt_afterInitMode1,
    afterByte_afterInitMode1] at hrun
  rw [exec_init_of_write_ok (hok 0 (by decide)) hrun, State.afterInitMode1, afterBus_afterBus]
  rfl

/-- INIT without the bracket, both transactions successful. -/
theorem exec_init_unbracketed {s : State} (hbracket : s.straps.prescaleSleepBracket = false)
    (hok : ∀ k, k < 2 → statusAt k s = .ok) :
    exec .init s = .next (finish .ok 1 (s.afterBus 2
      (writeCalls s.straps.deviceAddr 0x00 [initMode1] .ok ++
        writeCalls s.straps.deviceAddr 0xFE [prescale s.straps.defaultFreqHz] .ok)
      (chipWrite s.straps.prescalerNeedsSleep .ok 0xFE [prescale s.straps.defaultFreqHz]
        (Memory.write 0x00 initMode1 s.reg)))) := by
  have hrun := (setFrequency_unbracketed (s := s.afterInitMode1) hbracket s.straps.defaultFreqHz).trans
    (memWrite_afterBus _ _ _ _ _ _)
  rw [hok 1 (by decide)] at hrun
  exact exec_init_of_write_ok (hok 0 (by decide)) hrun

/-- Settles O36: with the bracket the chip is asleep at the PRESCALER write and MODE1 gets INIT's byte back; without it
the chip is awake there. -/
theorem initSetsMode1AndDefaultFrequency : Obligations.InitSetsMode1AndDefaultFrequency := by
  unfold Obligations.InitSetsMode1AndDefaultFrequency
  intro s
  refine ⟨fun hbracket hok => ?_, fun hbracket hok => ?_⟩
  · refine ⟨_, exec_init_bracketed hbracket hok, ⟨rfl, rfl⟩, rfl, fun a => ?_, ⟨rfl, rfl, rfl, rfl⟩, ⟨rfl, rfl⟩,
      ⟨rfl, rfl⟩, ⟨rfl, rfl, rfl, rfl, rfl⟩, rfl⟩
    simp only [finish_reg, afterBus_reg, Memory.read_write]
    split_ifs <;> rfl
  · refine ⟨_, exec_init_unbracketed hbracket hok, ⟨rfl, rfl⟩, rfl, fun a => ?_, ⟨rfl, rfl, rfl, rfl⟩, ⟨rfl, rfl⟩,
      ⟨rfl, rfl⟩, ⟨rfl, rfl, rfl, rfl, rfl⟩, rfl⟩
    simp only [finish_reg, afterBus_reg, read_chipWrite_prescaler, asleep_write_initMode1, Memory.read_write]
    by_cases hmode1 : a = 0x00
    · rw [if_pos hmode1, hmode1]
      rfl
    · rw [if_neg hmode1, if_neg hmode1]
      cases s.straps.prescalerNeedsSleep <;> rfl

/-- Settles O41: the faulted write is the only transaction. -/
theorem initStopsWhereItsFirstWriteFaults : Obligations.InitStopsWhereItsFirstWriteFaults := by
  unfold Obligations.InitStopsWhereItsFirstWriteFaults
  intro s hfault
  have h0 : statusAt 0 s = .fault := hfault
  have hrun : exec .init s = .next (finish .transportFault 1 (s.afterBus 1
      (writeCalls s.straps.deviceAddr 0x00 [initMode1] .fault) (Memory.forget 0x00 s.reg))) := by
    simp only [exec, execInit, memWrite_eq_afterBus, h0, andThen, conclude_eq_finish]
    rfl
  exact ⟨_, hrun, ⟨rfl, rfl⟩, rfl, Memory.read_forget _ _, ⟨rfl, rfl, rfl, rfl⟩, ⟨rfl, rfl⟩, ⟨rfl, rfl⟩,
    ⟨rfl, rfl, rfl, rfl, rfl⟩, rfl⟩

end Sys2Proof.Machine
end

section
/-! PROOFS. The single-channel commands of 42_single_channel: the one bus write of SETT and SETD, their rejected
channels, and the payload of a base-set command. -/

namespace Sys2Proof.Machine

/-! ### The write of one channel -/

/-- `BUF` filled from index 0 on (R24). -/
theorem getElem_loadBuf_zero (bytes : List Byte) (v : Vector Byte 64) (k : Nat) (hk : k < 64) :
    (loadBuf 0 bytes v)[k] = (bytes[k]?).getD v[k] := by
  rw [getElem_loadBuf]
  by_cases h : k < bytes.length
  · simp [h]
  · rw [dif_neg (by omega), List.getElem?_eq_none (Nat.le_of_not_lt h), Option.getD_none]

/-- From `s` to `t` a command of a length wrote a pair to its channel and did nothing else (R50 to R52, R110). -/
abbrev ChannelWritten (length : Nat) (ch : Byte) (p : Pair) (s t : State) : Prop :=
  answered (responseFor (nextStatus s)) length s t ∧
    madeCalls (writeCalls s.straps.deviceAddr (chanBase ch.toNat) (pairBytes p) (nextStatus s)) s t ∧
    bufHolds (pairBytes p) s t ∧
    regWritten (nextStatus s) (0x06 + 4 * ch.toNat) (pairBytes p) s t ∧
    tookStatuses 1 s t ∧ sameBytes s t ∧ sameFixed s t ∧ sameWorking s t

theorem regWritten_writeChannel {ch : Byte} (hch : ch.toNat ≤ 15) (length : Nat) (p : Pair) (s : State) :
    regWritten (nextStatus s) (0x06 + 4 * ch.toNat) (pairBytes p) s (conclude length (writeChannel ch p s)) := by
  intro a
  have hfour : (pairBytes p).length ≠ 1 := by simp
  rw [writeChannel_eq, conclude_eq, chanBase_toNat hch, read_chipWrite (by omega)]
  simp only [hfour, false_or]

theorem channelWritten_writeChannel {ch : Byte} (hch : ch.toNat ≤ 15) (length : Nat) (p : Pair) (s : State) :
    ChannelWritten length ch p s (conclude length (writeChannel ch p s)) := by
  have hreg := regWritten_writeChannel hch length p s
  rw [writeChannel_eq, conclude_eq] at hreg ⊢
  exact ⟨⟨rfl, rfl⟩, rfl, getElem_loadBuf_zero _ _, hreg, tookStatuses_one rfl rfl ⟨rfl, rfl⟩, ⟨rfl, rfl⟩, ⟨rfl, rfl⟩,
    rfl, rfl, rfl, rfl, rfl⟩

/-! ### Rejected arguments -/

theorem exec_sett_of_gt {ch : Byte} (h : 15 < ch.toNat) (on off : Word) (s : State) :
    exec (.sett ch on off) s = .next (raiseException .invalidArgument 3 s) :=
  exec_of_rejectedArg (i := .sett ch on off) h s

theorem exec_setd_of_gt {ch : Byte} (h : 15 < ch.toNat) (v : Word) (s : State) :
    exec (.setd ch v) s = .next (raiseException .invalidArgument 2 s) :=
  exec_of_rejectedArg (i := .setd ch v) h s

theorem exec_seta_of_gt {values : List Word} (h : 16 < values.length) (s : State) :
    exec (.seta values) s = .next (raiseException .invalidArgument (1 + values.length) s) :=
  exec_of_rejectedArg (i := .seta values) h s

/-- Settles O23: the three commands end in the one operation `raiseException`, which changes `responses` and `pc`. -/
theorem invalidArgumentBeforeAnyTransaction : Obligations.InvalidArgumentBeforeAnyTransaction := by
  unfold Obligations.InvalidArgumentBeforeAnyTransaction
  exact ⟨fun _ on off s h => exec_sett_of_gt h on off s, fun _ v s h => exec_setd_of_gt h v s,
    fun _ s h => exec_seta_of_gt h s⟩

/-! ### SETT and SETD -/

/-- Settles O20: on a legal channel SETT is the write of its pair. -/
theorem settWritesItsChannel : Obligations.SettWritesItsChannel := by
  unfold Obligations.SettWritesItsChannel
  exact ⟨fun ch on off s hch => ⟨_, exec_sett_of_le hch on off s, channelWritten_writeChannel hch 3 _ s⟩,
    fun _ on off s h => exec_sett_of_gt h on off s⟩

/-- The bytes of the saturation policy, by number (R94, R95). -/
theorem pairBytes_dutyPair (v : Word) :
    pairBytes (dutyPair v) =
      if v.toNat = 0 then [0x00, 0x00, 0x00, 0x10]
      else if 4095 ≤ v.toNat then [0x00, 0x10, 0x00, 0x00]
      else [0x00, 0x00, BitVec.ofNat 8 v.toNat, BitVec.ofNat 8 (v.toNat / 256)] := by
  by_cases hoff : v.toNat = 0
  · rw [dutyPair_of_off (classify_off hoff), if_pos hoff]
    decide
  by_cases hon : 4095 ≤ v.toNat
  · rw [dutyPair_of_on (classify_on hon), if_neg hoff, if_pos hon]
    decide
  have hlow : (pack13 v).1 = BitVec.ofNat 8 v.toNat :=
    BitVec.eq_of_toNat_eq (by rw [pack13_low_toNat, BitVec.toNat_ofNat])
  have hhigh : (pack13 v).2 = BitVec.ofNat 8 (v.toNat / 256) :=
    BitVec.eq_of_toNat_eq (by rw [pack13_high_toNat, BitVec.toNat_ofNat]; omega)
  have hzero : pack13 0 = (0x00, 0x00) := by decide
  rw [dutyPair_of_dimmed (classify_dimmed (by omega) (by omega)), if_neg hoff, if_neg hon]
  simp only [pairBytes, hlow, hhigh, hzero]

/-- Settles O21: on a legal channel SETD is the write of its duty pair, whose bytes are those of the policy. -/
theorem setdWritesItsChannel : Obligations.SetdWritesItsChannel := by
  unfold Obligations.SetdWritesItsChannel
  refine ⟨fun ch v s hch => ⟨_, exec_setd_of_le hch v s, ?_⟩, fun _ v s h => exec_setd_of_gt h v s⟩
  rw [← pairBytes_dutyPair]
  exact channelWritten_writeChannel hch 2 _ s

/-- Settles O22: both are rejected, or both are the write of one pair; only the length differs. -/
theorem setdDelegatesToSett : Obligations.SetdDelegatesToSett := by
  unfold Obligations.SetdDelegatesToSett
  intro ch v s
  by_cases hch : ch.toNat ≤ 15
  · refine ⟨_, _, exec_setd_of_le hch v s, exec_sett_of_le hch _ _ s, ?_⟩
    rw [writeChannel_eq, conclude_eq, conclude_eq]
    exact ⟨rfl, rfl⟩
  · have hrejected : 15 < ch.toNat := Nat.lt_of_not_le hch
    exact ⟨_, _, exec_setd_of_gt hrejected v s, exec_sett_of_gt hrejected _ _ s, rfl, rfl⟩

/-! ### The payload of a base-set command -/

theorem dropLast_writeCalls (device : BitVec 7) (addr : Byte) (bytes : List Byte) (status : TxnStatus) :
    (writeCalls device addr bytes status).dropLast =
      .beginTransaction device :: .writeByte addr :: bytes.map .writeByte := by
  rw [writeCalls, ← List.cons_append, ← List.cons_append, List.dropLast_concat]

theorem calls_writeChannel (length : Nat) (ch : Byte) (p : Pair) (s : State) :
    (conclude length (writeChannel ch p s)).calls =
      s.calls ++ writeCalls s.straps.deviceAddr (chanBase ch.toNat) (pairBytes p) (nextStatus s) := by
  rw [writeChannel_eq, conclude_eq]

/-- Under given parameters a base-set command makes no call, or one bus write of bytes that its words give (R113). -/
theorem exec_base_calls {i : Instr} (hbase : Base i) (straps : Straps) :
    (∀ s t, s.straps = straps → exec i s = .next t → t.calls = s.calls) ∨
    ∃ addr bytes, ∀ s t, s.straps = straps → exec i s = .next t →
      t.calls = s.calls ++ writeCalls straps.deviceAddr addr bytes (nextStatus s) := by
  by_cases hrejected : rejectedArg i
  · refine .inl fun s t _ ht => ?_
    obtain rfl := Host.Outcome.next.inj ((exec_of_rejectedArg hrejected s).symm.trans ht)
    rfl
  cases i with
  | sett ch on off =>
    refine .inr ⟨chanBase ch.toNat, pairBytes { on := on, off := off }, ?_⟩
    rintro s t rfl ht
    obtain rfl := Host.Outcome.next.inj ((exec_sett_of_le (Nat.le_of_not_lt hrejected) on off s).symm.trans ht)
    exact calls_writeChannel _ _ _ s
  | setd ch value =>
    refine .inr ⟨chanBase ch.toNat, pairBytes (dutyPair value), ?_⟩
    rintro s t rfl ht
    obtain rfl := Host.Outcome.next.inj ((exec_setd_of_le (Nat.le_of_not_lt hrejected) value s).symm.trans ht)
    exact calls_writeChannel _ _ _ s
  | seta values =>
    have hcount : values.length ≤ 16 := Nat.le_of_not_lt hrejected
    by_cases hempty : values.length = 0 ∧ straps.setAllEmpty = .noTransaction
    · left
      rintro s t rfl ht
      obtain rfl := Host.Outcome.next.inj ((exec_seta_of_le hcount s).symm.trans ht)
      rw [blockWrite_allocate_none values s hcount hempty, conclude_eq, allocate_eq values s hcount]
    · refine .inr ⟨0x06, setaBytes values, ?_⟩
      rintro s t rfl ht
      obtain rfl := Host.Outcome.next.inj ((exec_seta_of_le hcount s).symm.trans ht)
      rw [blockWrite_allocate values s hcount hempty, conclude_eq, walk_overlapAfter values s.overlap 0, setaBytes]
  | init | setf _ | setm _ => exact hbase.elim

/-- Settles O50: both states make no call, or the same bus write but for its status. -/
theorem payloadDependsOnTheWordsAlone : Obligations.PayloadDependsOnTheWordsAlone := by
  unfold Obligations.PayloadDependsOnTheWordsAlone
  intro i s u t v hbase hstraps ht hv
  rcases exec_base_calls hbase s.straps with hcalls | ⟨addr, bytes, hcalls⟩
  · exact ⟨[], [], by rw [hcalls s t rfl ht, List.append_nil], by rw [hcalls u v hstraps hv, List.append_nil], rfl⟩
  · exact ⟨_, _, hcalls s t rfl ht, hcalls u v hstraps hv, by rw [dropLast_writeCalls, dropLast_writeCalls]⟩

end Sys2Proof.Machine
end

section
/-! PROOFS. The multi-channel allocator of 43_multi_channel: the tally and the overlap, the walk at any place of its
list, and the one block write of SETA. -/

namespace Sys2Proof.Machine

/-! ### The tally -/

theorem dimmedOnly_cons_of_dimmed {v : Word} (h : classify v = .dimmed) (vs : List Word) :
    dimmedOnly (v :: vs) = v :: dimmedOnly vs :=
  List.filter_cons_of_pos (by simpa using h)

theorem dimmedOnly_cons_of_ne {v : Word} (h : classify v ≠ .dimmed) (vs : List Word) :
    dimmedOnly (v :: vs) = dimmedOnly vs :=
  List.filter_cons_of_neg (by simpa using h)

theorem dimmedOnly_dimmedOnly (vs : List Word) : dimmedOnly (dimmedOnly vs) = dimmedOnly vs := by
  simp [dimmedOnly, List.filter_filter]

theorem countDimmed_eq_length (vs : List Word) : countDimmed vs = (dimmedOnly vs).length := by
  induction vs with
  | nil => rfl
  | cons v vs ih =>
    cases h : classify v with
    | dimmed => simp [countDimmed, h, ih, dimmedOnly_cons_of_dimmed h]
    | off | on => rw [dimmedOnly_cons_of_ne (by simp [h]), ← ih]; simp [countDimmed, h]

theorem sumDimmed_eq_sum (vs : List Word) : sumDimmed vs = ((dimmedOnly vs).map BitVec.toNat).sum := by
  induction vs with
  | nil => rfl
  | cons v vs ih =>
    cases h : classify v with
    | dimmed => simp [sumDimmed, h, ih, dimmedOnly_cons_of_dimmed h]
    | off | on => rw [dimmedOnly_cons_of_ne (by simp [h]), ← ih]; simp [sumDimmed, h]

theorem countDimmed_dimmedOnly (vs : List Word) : countDimmed (dimmedOnly vs) = countDimmed vs := by
  rw [countDimmed_eq_length, dimmedOnly_dimmedOnly, countDimmed_eq_length]

theorem sumDimmed_dimmedOnly (vs : List Word) : sumDimmed (dimmedOnly vs) = sumDimmed vs := by
  rw [sumDimmed_eq_sum, dimmedOnly_dimmedOnly, sumDimmed_eq_sum]

/-- Settles O25: count and sum are those of the dimmed values, each of which is in 1 to 4094. -/
theorem tallyCountsAndSumsDimmed : Obligations.TallyCountsAndSumsDimmed := by
  unfold Obligations.TallyCountsAndSumsDimmed
  intro values
  have hcount := countDimmed_le_length values
  obtain ⟨hmin, hmax⟩ := sumDimmed_bounds values
  exact ⟨countDimmed_eq_length values, sumDimmed_eq_sum values, hcount, hmin, hmax, fun h => by omega⟩

/-! ### The overlap -/

theorem overlap_blockWrite (count : Nat) (s : State) : (blockWrite count s).2.overlap = s.overlap := by
  unfold blockWrite
  split
  · rfl
  · rw [memWrite_eq]

/-- SETA leaves `overlap` as its allocator does, whether it issues its block write or not (R120). -/
theorem exec_seta_overlap {values : List Word} {s t : State} (hcount : values.length ≤ 16)
    (hexec : exec (.seta values) s = .next t) : t.overlap = overlapAfter values s.overlap := by
  rw [exec_seta_of_le hcount, conclude_eq_finish] at hexec
  obtain rfl := Host.Outcome.next.inj hexec
  rw [finish_overlap, overlap_blockWrite, allocate_eq values s hcount]

/-- Settles O26: floor division is pinned by its two inequalities, and SETA writes `overlap` once, if at all. -/
theorem overlapIsFloorDivision : Obligations.OverlapIsFloorDivision := by
  unfold Obligations.OverlapIsFloorDivision
  refine ⟨fun n total hpos => ?_, fun n total hpos hn hlow hhigh => overlapOf_range hpos hn hlow hhigh,
    by decide, by decide, by decide, fun values s t hcount hexec => exec_seta_overlap hcount hexec⟩
  rw [mul_add, mul_one]
  exact mul_overlapOf_bounds hpos

/-! ### The walk at a place of its list -/

/-- The walk of a list in two parts goes on at the offset where the first part ends (R123). -/
theorem walk_append (overlap offset : Int) (xs ys : List Word) :
    walk overlap offset (xs ++ ys) =
      ((walk overlap offset xs).1 ++ (walk overlap (walk overlap offset xs).2 ys).1,
        (walk overlap (walk overlap offset xs).2 ys).2) := by
  induction xs generalizing offset with
  | nil => rfl
  | cons x xs ih => cases h : classify x <;> simp [walk, h, ih]

/-- A dimmed channel's pair is that of the offset where the walk of the channels before it ends (R123). -/
theorem walk_pair_of_dimmed {overlap offset : Int} {values : List Word} {i : Nat} {v : Word}
    (hv : values[i]? = some v) (hdimmed : classify v = .dimmed) :
    (walk overlap offset values).1[i]? = some (dimmedPair (walk overlap offset (values.take i)).2 v) := by
  obtain ⟨hi, rfl⟩ := List.getElem?_eq_some_iff.mp hv
  have hsplit : values = values.take i ++ values[i] :: values.drop (i + 1) := by simp
  have hlen : (walk overlap offset (values.take i)).1.length = i := by simp; omega
  conv_lhs => rw [hsplit, walk_append]
  rw [List.getElem?_append_right (by omega), hlen, Nat.sub_self]
  simp [walk, hdimmed]

/-- The closed form's sum, from the tally of its values (R123). -/
theorem startOf_eq (overlap : Int) (vs : List Word) :
    startOf overlap vs = sumDimmed vs - countDimmed vs * overlap := by
  rw [startOf, sumDimmed_eq_sum, countDimmed_eq_length]
  induction dimmedOnly vs with
  | nil => simp
  | cons v ds ih =>
    simp only [List.map_cons, List.sum_cons, List.length_cons, ih]
    push_cast
    ring

/-- The unreduced `offset` and the closed form's sum are whole periods apart (R123). -/
theorem walk_offset_eq_startOf (overlap : Int) (vs : List Word) :
    (walk overlap 0 vs).2 = startOf overlap vs + 4096 * countDimmed vs := by
  rw [walk_offset, startOf_eq]
  ring

theorem walk_offset_append_dimmed {v : Word} (hdimmed : classify v = .dimmed) (overlap offset : Int)
    (vs : List Word) :
    (walk overlap offset (vs ++ [v])).2 = (walk overlap offset vs).2 + 4096 + v.toNat - overlap := by
  simp [walk_append, walk, hdimmed, advance, periodTicks]

/-- Settles O27: the offset at a channel's turn is the closed form's sum up to whole periods. -/
theorem walkFollowsClosedForm : Obligations.WalkFollowsClosedForm := by
  unfold Obligations.WalkFollowsClosedForm
  refine ⟨fun overlap values i v hv hdimmed => ?_, fun overlap offset values v hdimmed => ?_⟩
  · refine ⟨_, walk_pair_of_dimmed hv hdimmed, ?_⟩
    simp only [dimmedPair, tickOf_toNat, walk_offset_eq_startOf]
    omega
  · have hpos := (toNat_of_classify_dimmed hdimmed).1
    rw [walk_offset_append_dimmed hdimmed]
    exact ⟨rfl, fun hoverlap => by omega⟩

theorem tickOf_toNat_self {v : Word} (h : v.toNat < 4096) : tickOf v.toNat = v := by
  have htick := tickOf_toNat v.toNat
  exact BitVec.eq_of_toNat_eq (by omega)

/-- At offset 0 a dimmed channel gets the pair of the single-channel policy (R95, R129). -/
theorem dimmedPair_zero {v : Word} (hdimmed : classify v = .dimmed) : dimmedPair 0 v = dutyPair v := by
  have hrange := toNat_of_classify_dimmed hdimmed
  rw [dutyPair_of_dimmed hdimmed, dimmedPair, zero_add, tickOf_toNat_self (by omega)]
  rfl

/-- Settles O31: before the first dimmed channel the closed form's sum is empty. -/
theorem firstDimmedChannelStartsAtZero : Obligations.FirstDimmedChannelStartsAtZero := by
  unfold Obligations.FirstDimmedChannelStartsAtZero
  intro overlap values i v hv hdimmed hfirst
  have hoffset : (walk overlap 0 (values.take i)).2 = 0 := by
    simp [walk_offset, sumDimmed_eq_sum, countDimmed_eq_length, hfirst]
  rw [walk_pair_of_dimmed hv hdimmed, hoffset, dimmedPair_zero hdimmed]

/-! ### Saturated and dimmed channels -/

/-- The saturated channels do not move the dimmed ones (R124). -/
theorem walk_dimmed_pairs (overlap offset : Int) (vs : List Word) :
    ((vs.zip (walk overlap offset vs).1).filter fun x => classify x.1 = .dimmed) =
      (dimmedOnly vs).zip (walk overlap offset (dimmedOnly vs)).1 := by
  induction vs generalizing offset with
  | nil => rfl
  | cons v vs ih =>
    cases h : classify v with
    | dimmed => simp [dimmedOnly_cons_of_dimmed h, walk, h, ih]
    | off | on => rw [dimmedOnly_cons_of_ne (by simp [h]), ← ih]; simp [walk, h]

/-- Settles O28: a saturated value's pair is its sentinel wherever it stands, and the walk and the tally see the dimmed
values alone. -/
theorem saturatedChannelsAreOutsideTheAllocation : Obligations.SaturatedChannelsAreOutsideTheAllocation := by
  unfold Obligations.SaturatedChannelsAreOutsideTheAllocation
  intro overlap offset values
  refine ⟨fun i v hv hoff => ?_, fun i v hv hon => ?_, walk_dimmed_pairs overlap offset values, ?_,
    (countDimmed_dimmedOnly values).symm, (sumDimmed_dimmedOnly values).symm⟩
  · simpa only [hoff, exists_const] using walk_pair (overlap := overlap) (offset := offset) hv
  · simpa only [hon, exists_const] using walk_pair (overlap := overlap) (offset := offset) hv
  · rw [walk_offset, walk_offset, countDimmed_dimmedOnly, sumDimmed_dimmedOnly]

/-- Settles O29: ON and OFF are one offset and the same offset plus the value, both reduced modulo the period. -/
theorem dimmedDurationIsExact : Obligations.DimmedDurationIsExact := by
  unfold Obligations.DimmedDurationIsExact
  intro overlap offset values i v p hv hdimmed hp
  obtain rfl := Option.some.inj ((walk_pair_of_dimmed hv hdimmed).symm.trans hp)
  generalize (walk overlap offset (values.take i)).2 = start
  have hrange := toNat_of_classify_dimmed hdimmed
  have hon := tickOf_toNat start
  have hoff := tickOf_toNat (start + v.toNat)
  simp only [dimmedPair]
  refine ⟨by omega, by omega, by omega, fun heq => ?_⟩
  rw [← heq] at hoff
  omega

/-! ### The bounds of the offset -/

/-- Every advance is positive, so the offset never falls (R123). -/
theorem le_walk_offset {overlap : Int} (h : overlap ≤ 3838) (offset : Int) (vs : List Word) :
    offset ≤ (walk overlap offset vs).2 := by
  have hcount : (0 : Int) ≤ countDimmed vs := Int.natCast_nonneg _
  have hmul := mul_le_mul_of_nonneg_left h hcount
  rw [walk_offset]
  omega

theorem walk_offset_take_le {overlap : Int} (h : overlap ≤ 3838) (offset : Int) (vs : List Word) (k : Nat) :
    (walk overlap offset (vs.take k)).2 ≤ (walk overlap offset vs).2 := by
  conv_rhs => rw [← List.take_append_drop k vs, walk_append]
  exact le_walk_offset h _ _

/-- The sum of all advances (R127). -/
theorem walk_offset_overlapOf (vs : List Word) :
    (walk (overlapOf (countDimmed vs) (sumDimmed vs)) 0 vs).2 =
      4096 * countDimmed vs + 4095 + ((sumDimmed vs : Int) - 4095) % countDimmed vs := by
  have hdiv := Int.mul_ediv_add_emod ((sumDimmed vs : Int) - 4095) (countDimmed vs)
  rw [walk_offset, overlapOf_eq_ediv]
  omega

/-- Settles O30: the offset rises from 0 to the sum of all advances. -/
theorem advancesSpreadOverThePeriod : Obligations.AdvancesSpreadOverThePeriod := by
  unfold Obligations.AdvancesSpreadOverThePeriod
  intro values hpos hlength
  have hcount : countDimmed values ≤ 16 := (countDimmed_le_length values).trans hlength
  obtain ⟨hmin, hmax⟩ := sumDimmed_bounds values
  have hoverlap := (overlapOf_range hpos hcount hmin hmax).2
  have hend := walk_offset_overlapOf values
  have hrest := Int.emod_lt_of_pos ((sumDimmed values : Int) - 4095) (b := countDimmed values) (by omega)
  refine ⟨hend, fun k => ⟨le_walk_offset hoverlap 0 _, ?_⟩⟩
  have hle := walk_offset_take_le hoverlap 0 values k
  omega

/-! ### The block write of SETA -/

theorem getElem_loadLatches_zero (values : List Word) (v : Vector Word 16) (k : Nat) (hk : k < 16) :
    (loadLatches 0 values v)[k] = (values[k]?).getD v[k] := by
  rw [getElem_loadLatches]
  by_cases h : k < values.length
  · simp [h]
  · rw [dif_neg (by omega), List.getElem?_eq_none (Nat.le_of_not_lt h), Option.getD_none]

/-- The walk of SETA is that of the overlap of its values: where none is dimmed, no overlap has a part in it (R128). -/
theorem walk_overlapAfter_eq (values : List Word) (before : Int) :
    walk (overlapAfter values before) 0 values =
      walk (overlapOf (countDimmed values) (sumDimmed values)) 0 values := by
  by_cases hzero : countDimmed values = 0
  · exact walk_of_countDimmed_eq_zero hzero _ _ _
  · rw [overlapAfter, if_neg hzero]

/-- Everything SETA does where it issues its block write (R120, R125). -/
theorem exec_seta_eq {values : List Word} {s : State} (hcount : values.length ≤ 16)
    (hissued : values.length = 0 → s.straps.setAllEmpty = .addressOnlyWrite) :
    exec (.seta values) s = .next { s with
      latches := loadLatches 0 values s.latches
      dimmedCount := countDimmed values
      totalDimmedTicks := sumDimmed values
      overlap := overlapAfter values s.overlap
      offset := (walk (overlapOf (countDimmed values) (sumDimmed values)) 0 values).2
      buf := loadBuf 0 (packPairs (setaPairs values)) s.buf
      reg := chipWrite s.straps.prescalerNeedsSleep (nextStatus s) 0x06 (packPairs (setaPairs values)) s.reg
      inFlight := none
      pointer := none
      calls := s.calls ++ writeCalls s.straps.deviceAddr 0x06 (packPairs (setaPairs values)) (nextStatus s)
      statusIn := s.statusIn.tail
      statusDraws := drawsAfter s.statusIn s.statusDraws
      responses := s.responses ++ [responseFor (nextStatus s)]
      pc := s.pc + (1 + values.length) } := by
  have hwrite : ¬ (values.length = 0 ∧ s.straps.setAllEmpty = .noTransaction) := fun ⟨hzero, hnone⟩ => by
    simp [hissued hzero] at hnone
  rw [exec_seta_of_le hcount, blockWrite_allocate values s hcount hwrite, conclude_eq, allocate_eq values s hcount,
    walk_overlapAfter_eq]
  rfl

theorem length_packPairs_setaPairs (values : List Word) :
    (packPairs (setaPairs values)).length = 4 * values.length := by
  rw [length_packPairs, setaPairs, length_walk]

/-- Settles O33: SETA's next state is that of `exec_seta_eq`, and its register image is read by `read_chipWrite`. -/
theorem setaIssuesOneBlockWrite : Obligations.SetaIssuesOneBlockWrite := by
  unfold Obligations.SetaIssuesOneBlockWrite
  intro values s hcount hissued
  have hlength := length_packPairs_setaPairs values
  refine ⟨_, exec_seta_eq hcount hissued, ⟨rfl, rfl⟩, rfl, hlength, fun a => ?_, getElem_loadLatches_zero _ _, rfl,
    rfl, rfl, rfl, getElem_loadBuf_zero _ _, tookStatuses_one rfl rfl ⟨rfl, rfl⟩, ⟨rfl, rfl⟩, ⟨rfl, rfl⟩⟩
  have hne : (packPairs (setaPairs values)).length ≠ 1 := by omega
  rw [read_chipWrite (by decide)]
  simp only [hne, false_or]

/-- With no dimmed value every pair of the walk is the one SETD gives its value (R124, R128). -/
theorem walk_pairs_of_no_dimmed {vs : List Word} (h : dimmedOnly vs = []) (overlap offset : Int) :
    (walk overlap offset vs).1 = vs.map dutyPair := by
  induction vs with
  | nil => rfl
  | cons v vs ih =>
    cases hv : classify v with
    | dimmed => simp [dimmedOnly_cons_of_dimmed hv] at h
    | off | on =>
      rw [dimmedOnly_cons_of_ne (by simp [hv])] at h
      simp [walk, hv, ih h, dutyPair]

/-- The payload of SETA with no dimmed value, by number (R94, R128). -/
theorem packPairs_setaPairs_of_no_dimmed {values : List Word} (h : dimmedOnly values = []) :
    packPairs (setaPairs values) =
      values.flatMap fun v => if v.toNat = 0 then [0x00, 0x00, 0x00, 0x10] else [0x00, 0x10, 0x00, 0x00] := by
  rw [setaPairs, walk_pairs_of_no_dimmed h, packPairs, List.flatMap_map]
  refine List.flatMap_congr fun v hv => ?_
  rw [pairBytes_dutyPair]
  by_cases hzero : v.toNat = 0
  · rw [if_pos hzero, if_pos hzero]
  · have hfull : 4095 ≤ v.toNat := by
      by_contra hlow
      exact List.filter_eq_nil_iff.mp h v hv (decide_eq_true (classify_dimmed (by omega) (by omega)))
    rw [if_neg hzero, if_pos hfull, if_neg hzero]

/-- Settles O32: the block write of SETA, where every pair is a sentinel and the tally is 0. -/
theorem noDimmedChannelGivesSentinelsOnly : Obligations.NoDimmedChannelGivesSentinelsOnly := by
  unfold Obligations.NoDimmedChannelGivesSentinelsOnly
  intro values s hcount hissued hnone
  have hzero : countDimmed values = 0 := by rw [countDimmed_eq_length, hnone, List.length_nil]
  have hoffset : (walk (overlapOf (countDimmed values) (sumDimmed values)) 0 values).2 = 0 := by
    simp [walk_offset, hzero, sumDimmed_eq_sum, hnone]
  refine ⟨_, exec_seta_eq hcount hissued, if_pos hzero, hoffset, hzero, ⟨rfl, rfl⟩, ?_⟩
  rw [← packPairs_setaPairs_of_no_dimmed hnone]

/-- Settles O34: the block write of no byte changes no register, and without it only `responses`, `pc` and three
working registers change. -/
theorem setaOfNoValuesFollowsItsParameter : Obligations.SetaOfNoValuesFollowsItsParameter := by
  unfold Obligations.SetaOfNoValuesFollowsItsParameter
  refine ⟨fun s hparam => ?_, fun s hparam => ?_⟩
  · exact ⟨_, exec_seta_eq (Nat.zero_le 16) fun _ => hparam, ⟨rfl, rfl⟩, rfl, chipWrite_nil _ _ _ _,
      tookStatuses_one rfl rfl ⟨rfl, rfl⟩, ⟨rfl, rfl⟩, ⟨rfl, rfl⟩⟩
  · have hcount : ([] : List Word).length ≤ 16 := Nat.zero_le 16
    rw [exec_seta_of_le hcount, blockWrite_allocate_none [] s hcount ⟨rfl, hparam⟩, conclude_eq,
      allocate_eq [] s hcount]
    rfl

end Sys2Proof.Machine
end

section
/-! PROOFS. The exceptions of 60_exceptions: the response that ends a command, and the calls it made when a transaction
faulted. -/

namespace Sys2Proof.Machine

/-! ### Nothing before the end of a command answers -/

@[simp] theorem prepare_responses (i : Instr) (s : State) : (prepare i s).responses = s.responses := by
  obtain ⟨_, _, _, _, _, _, h⟩ := prepare_eq i s
  rw [h]

theorem memWrite_responses (addr : Byte) (bytes : List Byte) (s : State) :
    (memWrite addr bytes s).2.responses = s.responses := by
  rw [memWrite_eq]

theorem memRead_responses (addr : Byte) (s : State) : (memRead addr s).2.responses = s.responses := by
  cases h : nextStatus s with
  | ok => rw [memRead_ok addr s h]
  | fault => rw [memRead_fault addr s h]

/-- Bus accesses give no response (R160). -/
theorem Issued.responses_eq {allowed : Byte → List Byte → Prop} {readable : Byte → Prop} {s : State}
    {r : TxnStatus × State} (h : Issued allowed readable s r) : r.2.responses = s.responses :=
  h.keeps (P := fun t => t.responses = s.responses) (fun t addr bytes _ ht => (memWrite_responses addr bytes t).trans ht)
    (fun t addr _ ht => (memRead_responses addr t).trans ht) rfl

theorem responseFor_eq_transportFault_iff (status : TxnStatus) :
    responseFor status = .transportFault ↔ status = .fault := by
  cases status <;> simp [responseFor]

/-- A command that issued its transactions answers OK or TransportFault (R162). -/
theorem responseFor_cases (status : TxnStatus) : responseFor status = .ok ∨ responseFor status = .transportFault := by
  cases status with
  | ok => exact .inl rfl
  | fault => exact .inr rfl

/-! ### The calls up to a fault -/

/-- The calls are those of bus accesses that ended with the status: a fault is among them exactly where the status is
one, and none stands before the last call (R162). -/
structure StopsAtFault (status : TxnStatus) (cs : List Call) : Prop where
  fault_iff : status = .fault ↔ .endTransaction .fault ∈ cs
  last : .endTransaction .fault ∉ cs.dropLast

/-- Calls without a fault are those of accesses that succeeded. -/
theorem stopsAtFault_ok_iff {cs : List Call} : StopsAtFault .ok cs ↔ .endTransaction .fault ∉ cs := by
  refine ⟨fun h hmem => ?_, fun h => ⟨iff_of_false nofun h, fun hmem => h (List.mem_of_mem_dropLast hmem)⟩⟩
  exact nomatch h.fault_iff.mpr hmem

theorem stopsAtFault_writeCalls (device : BitVec 7) (addr : Byte) (bytes : List Byte) (status : TxnStatus) :
    StopsAtFault status (writeCalls device addr bytes status) where
  fault_iff := by simp [writeCalls, eq_comm]
  last := by simp [dropLast_writeCalls]

theorem stopsAtFault_readCalls (device : BitVec 7) (addr b : Byte) : StopsAtFault .ok (readCalls device addr b) :=
  stopsAtFault_ok_iff.mpr (by simp [readCalls])

theorem stopsAtFault_readFaultCalls (device : BitVec 7) (addr : Byte) :
    StopsAtFault .fault (readFaultCalls device addr) where
  fault_iff := by simp [readFaultCalls]
  last := by simp [readFaultCalls]

/-- Accesses that go on after a success stop where the rest of them stops. -/
theorem StopsAtFault.append {status : TxnStatus} {cs ds : List Call} (hcs : StopsAtFault .ok cs)
    (hds : StopsAtFault status ds) : StopsAtFault status (cs ++ ds) := by
  have hclean := stopsAtFault_ok_iff.mp hcs
  refine ⟨by simp [hds.fault_iff, hclean], ?_⟩
  rw [List.dropLast_append]
  split
  · exact fun hmem => hclean (List.mem_of_mem_dropLast hmem)
  · simp [hclean, hds.last]

/-- From `s` the accesses made calls that stop at the first fault, and ended with its status. -/
abbrev CallsStopAtFault (s : State) (r : TxnStatus × State) : Prop :=
  ∃ cs, madeCalls cs s r.2 ∧ StopsAtFault r.1 cs

theorem callsStopAtFault_memWrite (addr : Byte) (bytes : List Byte) (s : State) :
    CallsStopAtFault s (memWrite addr bytes s) := by
  rw [memWrite_eq]
  exact ⟨_, rfl, stopsAtFault_writeCalls _ _ _ _⟩

theorem CallsStopAtFault.trans {s t : State} {r : TxnStatus × State} (h : CallsStopAtFault s (.ok, t))
    (hrest : CallsStopAtFault t r) : CallsStopAtFault s r := by
  obtain ⟨cs, hcs, hstop⟩ := h
  obtain ⟨ds, hds, hstop'⟩ := hrest
  exact ⟨cs ++ ds, by rw [madeCalls, hds, hcs, List.append_assoc], hstop.append hstop'⟩

/-- A command's bus accesses stop at the first that faults (R162). -/
theorem Issued.callsStopAtFault {allowed : Byte → List Byte → Prop} {readable : Byte → Prop} {s : State}
    {r : TxnStatus × State} (h : Issued allowed readable s r) : CallsStopAtFault s r := by
  induction h with
  | nothing s => exact ⟨[], (List.append_nil _).symm, stopsAtFault_ok_iff.mpr List.not_mem_nil⟩
  | lastWrite s addr bytes _ => exact callsStopAtFault_memWrite addr bytes s
  | faultedRead s addr _ hfault =>
    rw [memRead_fault addr s hfault]
    exact ⟨_, rfl, stopsAtFault_readFaultCalls _ _⟩
  | read s addr _ hok r _ ih =>
    refine CallsStopAtFault.trans ?_ ih
    rw [memRead_ok addr s hok]
    exact ⟨_, rfl, stopsAtFault_readCalls _ _ _⟩
  | write s addr bytes _ hok r _ ih =>
    refine CallsStopAtFault.trans ?_ ih
    have hwrite := callsStopAtFault_memWrite addr bytes s
    rwa [← hok, show nextStatus s = (memWrite addr bytes s).1 by rw [memWrite_eq]]

/-! ### How a command and a step end -/

/-- How a command ends, said once: rejected on its argument with nothing done, or answered for the status of its bus
accesses, whose calls stop at the first fault (R160 to R162). -/
theorem exec_ends (i : Instr) (s : State) :
    exec i s = .next (raiseException .invalidArgument i.length s) ∨
    ∃ t status cs, exec i s = .next t ∧ t.responses = s.responses ++ [responseFor status] ∧ madeCalls cs s t ∧
      StopsAtFault status cs := by
  rcases exec_cases i s with ⟨-, heq⟩ | ⟨-, r, heq, hissued⟩
  · exact .inl heq
  · obtain ⟨cs, hcs, hstop⟩ := hissued.callsStopAtFault
    rw [conclude_eq_finish] at heq
    refine .inr ⟨_, r.1, cs, heq, ?_, ?_, hstop⟩
    · rw [finish_responses, hissued.responses_eq, prepare_responses]
    · rw [madeCalls, finish_calls, hcs, prepare_calls]

theorem exec_answers (i : Instr) (s : State) :
    ∃ t r, exec i s = .next t ∧ t.responses = s.responses ++ [r] ∧
      (r = .ok ∨ r = .invalidArgument ∨ r = .transportFault) := by
  rcases exec_ends i s with heq | ⟨t, status, -, heq, hresponses, -⟩
  · exact ⟨_, _, heq, raiseException_responses _ _ s, .inr (.inl rfl)⟩
  · exact ⟨t, _, heq, hresponses, (responseFor_cases status).imp_right .inr⟩

theorem step_answers {s t : State} (hstep : step s = .next t) : ∃ r, t.responses = s.responses ++ [r] := by
  rcases step_next_cases hstep with ⟨-, -, -, rfl⟩ | ⟨i, -, -, hexec⟩
  · exact ⟨_, illegalCommand_responses s⟩
  · obtain ⟨t', r, heq, hresponses, -⟩ := exec_answers i s
    obtain rfl := Host.Outcome.next.inj (heq.symm.trans hexec)
    exact ⟨r, hresponses⟩

/-- Settles O45: a step ends in one `finish`, with the code of the branch it took. -/
theorem oneResponsePerCommand : Obligations.OneResponsePerCommand := by
  unfold Obligations.OneResponsePerCommand
  exact ⟨fun _ _ => step_answers, exec_answers, rfl⟩

/-- A step's one response is TransportFault exactly where one of its calls ended with a fault, which is then its last,
and a rejected command made no call and changed no register (R161 to R163). -/
abbrev FaultEndsStep (s t : State) : Prop :=
  ∃ r cs, t.responses = s.responses ++ [r] ∧ madeCalls cs s t ∧ (r = .transportFault ↔ .endTransaction .fault ∈ cs) ∧
    .endTransaction .fault ∉ cs.dropLast ∧ (r = .invalidArgument ∨ r = .illegalCommand → cs = [] ∧ t.reg = s.reg)

/-- An exception raised before any transaction has no fault to report (R161, R163). -/
theorem faultEndsStep_raiseException {code : Response} (hcode : code ≠ .transportFault) (length : Nat) (s : State) :
    FaultEndsStep s (raiseException code length s) :=
  ⟨code, [], rfl, (List.append_nil _).symm, iff_of_false hcode List.not_mem_nil, List.not_mem_nil, fun _ => ⟨rfl, rfl⟩⟩

theorem exec_faultEndsStep {i : Instr} {s t : State} (hexec : exec i s = .next t) : FaultEndsStep s t := by
  rcases exec_ends i s with heq | ⟨t', status, cs, heq, hresponses, hcalls, hstop⟩
  · obtain rfl := Host.Outcome.next.inj (heq.symm.trans hexec)
    exact faultEndsStep_raiseException (code := .invalidArgument) nofun _ s
  · obtain rfl := Host.Outcome.next.inj (heq.symm.trans hexec)
    refine ⟨_, cs, hresponses, hcalls, (responseFor_eq_transportFault_iff status).trans hstop.fault_iff, hstop.last,
      fun hrejected => ?_⟩
    rcases responseFor_cases status with h | h <;> simp [h] at hrejected

/-- Settles O46: an illegal or rejected command makes no call, and any other stops its bus accesses at their first
fault. -/
theorem faultingTransactionEndsItsCommand : Obligations.FaultingTransactionEndsItsCommand := by
  unfold Obligations.FaultingTransactionEndsItsCommand
  intro s t hstep
  rcases step_next_cases hstep with ⟨-, -, -, rfl⟩ | ⟨i, -, -, hexec⟩
  · exact faultEndsStep_raiseException (code := .illegalCommand) nofun 1 s
  · exact exec_faultEndsStep hexec

end Sys2Proof.Machine
end
